-- ==== Sys2Proof/Word.lean ====
section
/-! DEFINITION. Bytes, host words, and the two byte groupings every rule of the spec uses: a word of
round-key material (R12) and a block (R11). Types only; the operations on them stand in Machine/Bytes.lean. -/

namespace Sys2Proof

/-- A byte (R9). -/
abbrev Byte := BitVec 8

/-- A 32-bit host register word (R7, R60). -/
abbrev Word := BitVec 32

/-- Four consecutive bytes, the first byte first: a word of round-key material (R12) and a column of
the block state, `s[0][c] .. s[3][c]` (R11). -/
structure Quad where
  b0 : Byte
  b1 : Byte
  b2 : Byte
  b3 : Byte
deriving DecidableEq, Repr

/-- A 16-byte block as its four columns: byte `4c + r` of the sequence is byte `r` of column `c` (R11). -/
structure Block where
  c0 : Quad
  c1 : Quad
  c2 : Quad
  c3 : Quad
deriving DecidableEq, Repr

end Sys2Proof
end

