-- ==== Sys2Proof/Syntax.lean ====
section
/-! DEFINITION. The eight commands (R91), one constructor per row of spec/opcode_table.json, the key sizes (R110)
and the error codes (R200). -/

namespace Sys2Proof

/-- A legal key size, `KS` = 0, 1, 2 (R92, R110). -/
inductive KeySize where
  | k128
  | k192
  | k256
deriving DecidableEq, Repr

/-- A command. The two key loads carry the raw `KS` field (R90); the value `0b11` names no key size (R92) and
Instr.wellFormed refuses it. The other commands have no field that may vary (R93); their operands are registers (R95). -/
inductive Instr where
  | initKey (ks : BitVec 2)
  | initKeyIv (ks : BitVec 2)
  | setIv
  | ecbEnc
  | ecbDec
  | cbcEnc
  | cbcDec
  | ctrXcrypt
deriving DecidableEq, Repr

/-- The error codes 1 to 6 of R200; code 0 `NONE` is the absence of one. -/
inductive CmdError where
  | illegalCmd
  | badKeySize
  | noKey
  | noIv
  | badAlign
  | badRange
deriving DecidableEq, Repr

end Sys2Proof
end

