-- ==== Sys2Proof/WellFormed.lean ====
section
/-! DEFINITION. When a command as syntax is legal: the one check is the reserved key size (R92, R93). -/

namespace Sys2Proof

/-- `KS` of a key load names a key size: it is not `0b11` (R92). -/
def keySizeLegal (ks : BitVec 2) : Bool := ks != 0b11#2

/-- A command all of whose fields are legal (R92, R93). -/
def Instr.wellFormed : Instr → Bool
  | .initKey ks => keySizeLegal ks
  | .initKeyIv ks => keySizeLegal ks
  | .setIv => true
  | .ecbEnc => true
  | .ecbDec => true
  | .cbcEnc => true
  | .cbcDec => true
  | .ctrXcrypt => true

end Sys2Proof
end

