-- ==== Sys2Proof/Decode.lean ====
section
/-! DEFINITION. The command word `CMD32` (R90): decoding, total on every 32-bit word and rejecting by error code
(R97), then encoding from the same tables (R90, R91, R99), and the rows of spec/opcode_table.json. -/

namespace Sys2Proof

/-- `OP`, bits 3:0 (R90). -/
def opField (w : Word) : BitVec 4 := w.extractLsb' 0 4

/-- `KS`, bits 5:4 (R90). -/
def ksField (w : Word) : BitVec 2 := w.extractLsb' 4 2

/-- `RSV`, bits 31:6 (R90). -/
def rsvField (w : Word) : BitVec 26 := w.extractLsb' 6 26

/-- The command an `OP` value names (R91); none for the reserved values (R94). -/
def commandOf? (op : BitVec 4) (ks : BitVec 2) : Option Instr :=
  match op.toNat with
  | 1 => some (.initKey ks)
  | 2 => some (.initKeyIv ks)
  | 3 => some .setIv
  | 4 => some .ecbEnc
  | 5 => some .ecbDec
  | 6 => some .cbcEnc
  | 7 => some .cbcDec
  | 8 => some .ctrXcrypt
  | _ => none

/-- The commands whose `KS` field may be non-zero (R93). -/
def Instr.isKeyLoad : Instr → Bool
  | .initKey _ => true
  | .initKeyIv _ => true
  | .setIv => false
  | .ecbEnc => false
  | .ecbDec => false
  | .cbcEnc => false
  | .cbcDec => false
  | .ctrXcrypt => false

/-- The checks of R97 on `OP` and `KS`, in the order of the rule. -/
def decodeFields (op : BitVec 4) (ks : BitVec 2) : Except CmdError Instr :=
  match commandOf? op ks with
  | none => .error .illegalCmd
  | some i =>
    if i.isKeyLoad then
      if ks = 0b11#2 then .error .badKeySize else .ok i
    else
      if ks = 0b00#2 then .ok i else .error .illegalCmd

/-- The decode function of R97. -/
def decode (w : Word) : Except CmdError Instr :=
  if rsvField w ≠ 0#26 then .error .illegalCmd
  else decodeFields (opField w) (ksField w)

/-- The `OP` value of a command (R91). -/
def Instr.opcode : Instr → BitVec 4
  | .initKey _ => 0x1#4
  | .initKeyIv _ => 0x2#4
  | .setIv => 0x3#4
  | .ecbEnc => 0x4#4
  | .ecbDec => 0x5#4
  | .cbcEnc => 0x6#4
  | .cbcDec => 0x7#4
  | .ctrXcrypt => 0x8#4

/-- The `KS` field of a command: zero but for the key loads (R93). -/
def Instr.ksBits : Instr → BitVec 2
  | .initKey ks => ks
  | .initKeyIv ks => ks
  | .setIv => 0b00#2
  | .ecbEnc => 0b00#2
  | .ecbDec => 0b00#2
  | .cbcEnc => 0b00#2
  | .cbcDec => 0b00#2
  | .ctrXcrypt => 0b00#2

/-- The command word: `RSV = 0`, then `KS`, then `OP` (R90). -/
def encode (i : Instr) : Word := 0#26 ++ i.ksBits ++ i.opcode

/-- A row of the opcode table: a word belongs to it when `w &&& mask = bits`. -/
structure OpcodeRow where
  mnemonic : String
  bits : Word
  mask : Word
deriving DecidableEq, Repr

/-- spec/opcode_table.json, row by row. -/
def opcodeTable : List OpcodeRow :=
  [⟨"INIT_KEY",    0x00000001#32, 0xFFFFFFCF#32⟩,
   ⟨"INIT_KEY_IV", 0x00000002#32, 0xFFFFFFCF#32⟩,
   ⟨"SET_IV",      0x00000003#32, 0xFFFFFFFF#32⟩,
   ⟨"ECB_ENC",     0x00000004#32, 0xFFFFFFFF#32⟩,
   ⟨"ECB_DEC",     0x00000005#32, 0xFFFFFFFF#32⟩,
   ⟨"CBC_ENC",     0x00000006#32, 0xFFFFFFFF#32⟩,
   ⟨"CBC_DEC",     0x00000007#32, 0xFFFFFFFF#32⟩,
   ⟨"CTR_XCRYPT",  0x00000008#32, 0xFFFFFFFF#32⟩]

/-- The word belongs to the row. -/
def OpcodeRow.matches (r : OpcodeRow) (w : Word) : Bool := w &&& r.mask == r.bits

/-- The host's table word as a command word: a command is one 32-bit word (R96), so the bits above `nbits` are zero. -/
def tableWord (nbits w : Nat) : Word := BitVec.ofNat 32 (w % 2 ^ nbits)

/-- What the decoder reads from a table word; none where it gives an error. -/
def decodeTableWord (nbits w : Nat) : Option Instr :=
  match decode (tableWord nbits w) with
  | .ok i => some i
  | .error _ => none

end Sys2Proof
end

