-- ==== Sys2Proof/Config.lean ====
section
/-! DEFINITION. The instance parameters of R6. Their types admit legal instances only: R6 and R135 say that an
instance whose parameters violate their legal range fails elaboration and has no run. -/

namespace Sys2Proof

/-- A substitution table in the 16 x 16 layout of R130: sixteen rows of sixteen entries. -/
abbrev Table := Vector (Vector Byte 16) 16

/-- `T[v]`: row `v[7:4]`, column `v[3:0]` (R130). -/
def Table.look (t : Table) (v : Byte) : Byte :=
  (t[(v.extractLsb' 4 4).toNat]'(v.extractLsb' 4 4).isLt)[(v.extractLsb' 0 4).toNat]'(v.extractLsb' 0 4).isLt

/-- Every byte value, in increasing order. -/
def allBytes : List Byte := (List.range 256).map (BitVec.ofNat 8)

/-- The table is a permutation of 0..255 (R6, R135): every byte value occurs among its 256 entries. -/
def Table.isPerm (t : Table) : Bool :=
  let entries := t.toList.flatMap (·.toList)
  allBytes.all fun w => entries.contains w

/-- A table given as a parameter (`EXP_SBOX`, `ALT_SBOX`), legal by construction (R6, R135). -/
structure SBox where
  table : Table
  perm : table.isPerm = true
deriving DecidableEq, Repr

/-- `SBOX_MODE`, with `EXP_SBOX` where the mode uses it (R6, R133). -/
inductive SboxVariant where
  | standard
  | experimental (exp : SBox)
deriving DecidableEq, Repr

/-- `MIX_MODE`, with `ALT_SBOX` where the mode uses it (R6, R134). -/
inductive MixVariant where
  | mds
  | altSub (alt : SBox)
deriving DecidableEq, Repr

/-- The legal values of `BUF_BYTES` (R6). -/
def legalBufBytes (n : Nat) : Bool := n % 16 == 0 && 16 ≤ n && n ≤ 61440

/-- The parameters of an instance (R6). `LATENCY` is not among them: when a completion is taken is said by the
events of the host program (log entry 2). `BUS_PROTOCOL` is read by no rule (R60). -/
structure Params where
  sbox : SboxVariant
  mix : MixVariant
  bufBytes : Nat
  legal : legalBufBytes bufBytes = true
deriving DecidableEq, Repr

/-- The default instance of R6: STANDARD, MDS, 4096 bytes. -/
def Params.default : Params := ⟨.standard, .mds, 4096, rfl⟩

end Sys2Proof
end

