-- ==== Sys2Proof/Machine/State.lean ====
section
/-! DEFINITION. All the state the spec gives the engine (10_state.md), apart from it the arguments of the step relation
(R46) and its output, the reasons a step can stop, and the state after reset (R48). -/

namespace Sys2Proof.Machine

/-- Why a step stops with no next state. -/
inductive Fault where
  /-- Raised by a host read of a `BUF` word, or by the completion of a data command, that reads the byte `off` of the
  data buffer, which no host write has written since reset (R49, U1) or which lies outside the buffer (no run
  reaches that: R68). SAFE: the hardware returns some value on which no rule may depend. -/
  | unwrittenRead (off : Nat)
  /-- Raised by the completion step when the latch holds no legal command. R172: `LAT.op` is always one of the eight
  legal opcodes, so no run raises it. SAFE. -/
  | illegalLatch (op : BitVec 4) (ks : BitVec 2)
deriving DecidableEq, Repr

/-- Why an instruction has no meaning. -/
inductive Refusal where
  /-- For an instruction without a meaning in this model. No arm answers it: every instruction has its meaning. SAFE. -/
  | notModelled (mnemonic : String)
deriving DecidableEq, Repr

/-- An event of the total order of R72. -/
inductive Event where
  /-- The host transaction `Read(off)` (R60). -/
  | hostRead (off : BitVec 16)
  /-- The host transaction `Write(off, data)` (R60). -/
  | hostWrite (off : BitVec 16) (data : Word)
  /-- The engine's turn: the completion step where it is enabled (R171). -/
  | engine
  /-- `rst_n` goes low (R230). -/
  | assertReset
  /-- `rst_n` goes high (R230). -/
  | releaseReset
deriving DecidableEq, Repr

/-- The response of a bus transaction: `ok` or `error`, and the word of a read (R60). -/
inductive BusResponse where
  | read (ok : Bool) (data : Word)
  | write (ok : Bool)
deriving DecidableEq, Repr

/-- The command latch `LAT` (R43). -/
structure Latch where
  op : BitVec 4
  ks : BitVec 2
  addr : Word
  len : Word
deriving DecidableEq, Repr

/-- The data buffer: the bytes that hold a value, by rising offset. A byte that is not listed holds no value (R49). -/
abbrev Memory := List Host.Cell

/-- The canonical form: offsets strictly rising. (No entry can equal what an unlisted byte reads as: that is no value.) -/
abbrev Memory.wf (m : Memory) : Prop := m.Pairwise fun p q => p.1 < q.1

/-- The state of the engine: every piece of state the spec gives it (10_state.md) and nothing else. -/
structure Engine where
  /-- `ADDR` (R28). -/
  addr : Word
  /-- `LEN` (R29). -/
  len : Word
  /-- `KEY0`..`KEY7` (R30). -/
  key : Vector Word 8
  /-- `IVIN0`..`IVIN3` (R31). -/
  ivin : Vector Word 4
  /-- `INTSTAT` bits 2:0: DROP, ERR, DONE (R25). -/
  intstat : BitVec 3
  /-- `INTEN` bits 2:0 (R26). -/
  inten : BitVec 3
  /-- `STATUS.ERR` (R24). -/
  err : Bool
  /-- `STATUS.ERRCODE`: none is code 0 (R24, R200). -/
  errCode : Option CmdError
  /-- `STATUS.BUSY` (R43). -/
  busy : Bool
  /-- `STATUS.KEY_VALID` (R42). -/
  keyValid : Bool
  /-- `STATUS.IV_VALID` (R42). -/
  ivValid : Bool
  /-- `KS_CUR`, shown as `STATUS.KEYSIZE` (R42). -/
  ksCur : KeySize
  /-- `LAT` (R43). -/
  lat : Latch
  /-- `RK`, 240 bytes as 60 words (R40, R7). -/
  rk : Vector Quad 60
  /-- `CV`, 16 bytes (R41). -/
  cv : Block
  /-- `BUF` (R34). -/
  buf : Memory
  /-- The level of the reset input `rst_n` (R60, R230). -/
  rstN : Bool
deriving DecidableEq, Repr

/-- The arguments of the step relation that are not state (R46): the instance, and the host's program with the commands'
durations as one list of events (log entries 1 and 2). -/
structure Arguments where
  /-- The instance parameters (R6), changed by no step. -/
  params : Params
  /-- The events to come, the next one first: the host's program, and where the completions fall in it. -/
  agenda : List Event
deriving DecidableEq, Repr

/-- What the host's interface calls a state: the engine's state, beside it the arguments of the step relation, and its
output, the response of the last bus transaction (log entry 4). Engine.next is the step relation over Engine alone. -/
structure State extends Engine, Arguments where
  /-- The response of the last bus transaction. -/
  resp : Option BusResponse
deriving DecidableEq, Repr

/-- The zero bytes of a word and of a block (R9). -/
def zeroQuad : Quad := ⟨0#8, 0#8, 0#8, 0#8⟩

/-- Sixteen zero bytes. -/
def zeroBlock : Block := ⟨zeroQuad, zeroQuad, zeroQuad, zeroQuad⟩

/-- The reset values of R48; they depend on no parameter. -/
def Engine.initial : Engine where
  addr := 0#32
  len := 0#32
  key := Vector.replicate 8 0#32
  ivin := Vector.replicate 4 0#32
  intstat := 0#3
  inten := 0#3
  err := false
  errCode := none
  busy := false
  keyValid := false
  ivValid := false
  ksCur := .k128
  lat := ⟨0#4, 0#2, 0#32, 0#32⟩
  rk := Vector.replicate 60 zeroQuad
  cv := zeroBlock
  buf := []
  rstN := true

/-- The engine right after reset, for an instance and a host program as arguments (R46, R242). -/
def State.start (p : Params) (program : List Event) : State where
  toEngine := Engine.initial
  params := p
  agenda := program
  resp := none

/-- The engine right after reset, for an instance, before any event. -/
def State.initial (p : Params) : State := State.start p []

/-- The default instance right after reset, `rst_n` high again (R48, R232; log entry 5). -/
def State.reset : State := State.initial Params.default

end Sys2Proof.Machine
end

