-- ==== Sys2Proof/Machine/Bytes.lean ====
section
/-! DEFINITION. Byte sequences (R9), words and blocks (R11, R12), big-endian numbers (R9) and the lanes of a host
word (R62). -/

namespace Sys2Proof

/-- The four bytes of a word, first byte first (R12). -/
def Quad.bytes (q : Quad) : List Byte := [q.b0, q.b1, q.b2, q.b3]

/-- The word made of the first four bytes of a sequence; a missing byte counts as zero, and no caller passes fewer. -/
def Quad.ofBytes (l : List Byte) : Quad := ⟨l.getD 0 0#8, l.getD 1 0#8, l.getD 2 0#8, l.getD 3 0#8⟩

/-- A byte map applied to each byte of a word. -/
def Quad.map (f : Byte → Byte) (q : Quad) : Quad := ⟨f q.b0, f q.b1, f q.b2, f q.b3⟩

/-- `p ^ q`, byte-wise (R9). -/
def Quad.xor (p q : Quad) : Quad := ⟨p.b0 ^^^ q.b0, p.b1 ^^^ q.b1, p.b2 ^^^ q.b2, p.b3 ^^^ q.b3⟩

/-- The sixteen bytes of a block, byte 0 first: column 0 is bytes 0 to 3 (R11). -/
def Block.bytes (b : Block) : List Byte := b.c0.bytes ++ b.c1.bytes ++ b.c2.bytes ++ b.c3.bytes

/-- The block made of the first sixteen bytes of a sequence (R11). -/
def Block.ofBytes (l : List Byte) : Block :=
  ⟨Quad.ofBytes l, Quad.ofBytes (l.drop 4), Quad.ofBytes (l.drop 8), Quad.ofBytes (l.drop 12)⟩

/-- Byte `k` of a block, `k` in 0..15 (R9). -/
def Block.byte (b : Block) (k : Nat) : Byte := b.bytes.getD k 0#8

/-- Column `c` of a block (R11). -/
def Block.col (b : Block) (c : Fin 4) : Quad :=
  match c with
  | 0 => b.c0
  | 1 => b.c1
  | 2 => b.c2
  | 3 => b.c3

/-- A byte map applied to each byte of a block. -/
def Block.map (f : Byte → Byte) (b : Block) : Block := ⟨b.c0.map f, b.c1.map f, b.c2.map f, b.c3.map f⟩

/-- `p ^ q`, byte-wise (R9). -/
def Block.xor (p q : Block) : Block := ⟨p.c0.xor q.c0, p.c1.xor q.c1, p.c2.xor q.c2, p.c3.xor q.c3⟩

/-- `int_be(b)`: the number whose most significant byte is byte 0 (R9). -/
def intBe (l : List Byte) : Nat := l.foldl (fun n b => n * 256 + b.toNat) 0

/-- `be_16(n)`: the sixteen bytes `c` with `int_be(c) = n`, for `n < 2^128` (R9). -/
def be16 (n : Nat) : Block :=
  Block.ofBytes ((List.range 16).map fun k => BitVec.ofNat 8 (n / 256 ^ (15 - k)))

/-- The host word whose lane `j` is byte `j` of the four (R62). -/
def laneWord (q : Quad) : Word := q.b3 ++ q.b2 ++ q.b1 ++ q.b0

/-- The four lanes of a host word, lane 0 first (R62). -/
def wordLanes (w : Word) : Quad :=
  ⟨w.extractLsb' 0 8, w.extractLsb' 8 8, w.extractLsb' 16 8, w.extractLsb' 24 8⟩

end Sys2Proof
end

