-- ==== Sys2Proof/Machine/Tables.lean ====
section
/-! DEFINITION. The constant tables: the standard S-box pair (R131, R132), the round constants (R111), and the pairs
an instance uses (R133, R134). The standard tables are marked by the spec itself as general knowledge (log entry 9). -/

namespace Sys2Proof

/-- Row 0 of `STD_SBOX` (R131). -/
def stdSboxRow0 : Vector Byte 16 :=
  #v[0x63#8, 0x7c#8, 0x77#8, 0x7b#8, 0xf2#8, 0x6b#8, 0x6f#8, 0xc5#8,
     0x30#8, 0x01#8, 0x67#8, 0x2b#8, 0xfe#8, 0xd7#8, 0xab#8, 0x76#8]

/-- Row 1 of `STD_SBOX` (R131). -/
def stdSboxRow1 : Vector Byte 16 :=
  #v[0xca#8, 0x82#8, 0xc9#8, 0x7d#8, 0xfa#8, 0x59#8, 0x47#8, 0xf0#8,
     0xad#8, 0xd4#8, 0xa2#8, 0xaf#8, 0x9c#8, 0xa4#8, 0x72#8, 0xc0#8]

/-- Row 2 of `STD_SBOX` (R131). -/
def stdSboxRow2 : Vector Byte 16 :=
  #v[0xb7#8, 0xfd#8, 0x93#8, 0x26#8, 0x36#8, 0x3f#8, 0xf7#8, 0xcc#8,
     0x34#8, 0xa5#8, 0xe5#8, 0xf1#8, 0x71#8, 0xd8#8, 0x31#8, 0x15#8]

/-- Row 3 of `STD_SBOX` (R131). -/
def stdSboxRow3 : Vector Byte 16 :=
  #v[0x04#8, 0xc7#8, 0x23#8, 0xc3#8, 0x18#8, 0x96#8, 0x05#8, 0x9a#8,
     0x07#8, 0x12#8, 0x80#8, 0xe2#8, 0xeb#8, 0x27#8, 0xb2#8, 0x75#8]

/-- Row 4 of `STD_SBOX` (R131). -/
def stdSboxRow4 : Vector Byte 16 :=
  #v[0x09#8, 0x83#8, 0x2c#8, 0x1a#8, 0x1b#8, 0x6e#8, 0x5a#8, 0xa0#8,
     0x52#8, 0x3b#8, 0xd6#8, 0xb3#8, 0x29#8, 0xe3#8, 0x2f#8, 0x84#8]

/-- Row 5 of `STD_SBOX` (R131). -/
def stdSboxRow5 : Vector Byte 16 :=
  #v[0x53#8, 0xd1#8, 0x00#8, 0xed#8, 0x20#8, 0xfc#8, 0xb1#8, 0x5b#8,
     0x6a#8, 0xcb#8, 0xbe#8, 0x39#8, 0x4a#8, 0x4c#8, 0x58#8, 0xcf#8]

/-- Row 6 of `STD_SBOX` (R131). -/
def stdSboxRow6 : Vector Byte 16 :=
  #v[0xd0#8, 0xef#8, 0xaa#8, 0xfb#8, 0x43#8, 0x4d#8, 0x33#8, 0x85#8,
     0x45#8, 0xf9#8, 0x02#8, 0x7f#8, 0x50#8, 0x3c#8, 0x9f#8, 0xa8#8]

/-- Row 7 of `STD_SBOX` (R131). -/
def stdSboxRow7 : Vector Byte 16 :=
  #v[0x51#8, 0xa3#8, 0x40#8, 0x8f#8, 0x92#8, 0x9d#8, 0x38#8, 0xf5#8,
     0xbc#8, 0xb6#8, 0xda#8, 0x21#8, 0x10#8, 0xff#8, 0xf3#8, 0xd2#8]

/-- Row 8 of `STD_SBOX` (R131). -/
def stdSboxRow8 : Vector Byte 16 :=
  #v[0xcd#8, 0x0c#8, 0x13#8, 0xec#8, 0x5f#8, 0x97#8, 0x44#8, 0x17#8,
     0xc4#8, 0xa7#8, 0x7e#8, 0x3d#8, 0x64#8, 0x5d#8, 0x19#8, 0x73#8]

/-- Row 9 of `STD_SBOX` (R131). -/
def stdSboxRow9 : Vector Byte 16 :=
  #v[0x60#8, 0x81#8, 0x4f#8, 0xdc#8, 0x22#8, 0x2a#8, 0x90#8, 0x88#8,
     0x46#8, 0xee#8, 0xb8#8, 0x14#8, 0xde#8, 0x5e#8, 0x0b#8, 0xdb#8]

/-- Row a of `STD_SBOX` (R131). -/
def stdSboxRowa : Vector Byte 16 :=
  #v[0xe0#8, 0x32#8, 0x3a#8, 0x0a#8, 0x49#8, 0x06#8, 0x24#8, 0x5c#8,
     0xc2#8, 0xd3#8, 0xac#8, 0x62#8, 0x91#8, 0x95#8, 0xe4#8, 0x79#8]

/-- Row b of `STD_SBOX` (R131). -/
def stdSboxRowb : Vector Byte 16 :=
  #v[0xe7#8, 0xc8#8, 0x37#8, 0x6d#8, 0x8d#8, 0xd5#8, 0x4e#8, 0xa9#8,
     0x6c#8, 0x56#8, 0xf4#8, 0xea#8, 0x65#8, 0x7a#8, 0xae#8, 0x08#8]

/-- Row c of `STD_SBOX` (R131). -/
def stdSboxRowc : Vector Byte 16 :=
  #v[0xba#8, 0x78#8, 0x25#8, 0x2e#8, 0x1c#8, 0xa6#8, 0xb4#8, 0xc6#8,
     0xe8#8, 0xdd#8, 0x74#8, 0x1f#8, 0x4b#8, 0xbd#8, 0x8b#8, 0x8a#8]

/-- Row d of `STD_SBOX` (R131). -/
def stdSboxRowd : Vector Byte 16 :=
  #v[0x70#8, 0x3e#8, 0xb5#8, 0x66#8, 0x48#8, 0x03#8, 0xf6#8, 0x0e#8,
     0x61#8, 0x35#8, 0x57#8, 0xb9#8, 0x86#8, 0xc1#8, 0x1d#8, 0x9e#8]

/-- Row e of `STD_SBOX` (R131). -/
def stdSboxRowe : Vector Byte 16 :=
  #v[0xe1#8, 0xf8#8, 0x98#8, 0x11#8, 0x69#8, 0xd9#8, 0x8e#8, 0x94#8,
     0x9b#8, 0x1e#8, 0x87#8, 0xe9#8, 0xce#8, 0x55#8, 0x28#8, 0xdf#8]

/-- Row f of `STD_SBOX` (R131). -/
def stdSboxRowf : Vector Byte 16 :=
  #v[0x8c#8, 0xa1#8, 0x89#8, 0x0d#8, 0xbf#8, 0xe6#8, 0x42#8, 0x68#8,
     0x41#8, 0x99#8, 0x2d#8, 0x0f#8, 0xb0#8, 0x54#8, 0xbb#8, 0x16#8]

/-- The standard AES forward S-box `STD_SBOX` (R131). -/
def stdSbox : Table :=
  #v[stdSboxRow0, stdSboxRow1, stdSboxRow2, stdSboxRow3,
     stdSboxRow4, stdSboxRow5, stdSboxRow6, stdSboxRow7,
     stdSboxRow8, stdSboxRow9, stdSboxRowa, stdSboxRowb,
     stdSboxRowc, stdSboxRowd, stdSboxRowe, stdSboxRowf]

/-- Row 0 of `STD_ISBOX` (R132). -/
def stdIsboxRow0 : Vector Byte 16 :=
  #v[0x52#8, 0x09#8, 0x6a#8, 0xd5#8, 0x30#8, 0x36#8, 0xa5#8, 0x38#8,
     0xbf#8, 0x40#8, 0xa3#8, 0x9e#8, 0x81#8, 0xf3#8, 0xd7#8, 0xfb#8]

/-- Row 1 of `STD_ISBOX` (R132). -/
def stdIsboxRow1 : Vector Byte 16 :=
  #v[0x7c#8, 0xe3#8, 0x39#8, 0x82#8, 0x9b#8, 0x2f#8, 0xff#8, 0x87#8,
     0x34#8, 0x8e#8, 0x43#8, 0x44#8, 0xc4#8, 0xde#8, 0xe9#8, 0xcb#8]

/-- Row 2 of `STD_ISBOX` (R132). -/
def stdIsboxRow2 : Vector Byte 16 :=
  #v[0x54#8, 0x7b#8, 0x94#8, 0x32#8, 0xa6#8, 0xc2#8, 0x23#8, 0x3d#8,
     0xee#8, 0x4c#8, 0x95#8, 0x0b#8, 0x42#8, 0xfa#8, 0xc3#8, 0x4e#8]

/-- Row 3 of `STD_ISBOX` (R132). -/
def stdIsboxRow3 : Vector Byte 16 :=
  #v[0x08#8, 0x2e#8, 0xa1#8, 0x66#8, 0x28#8, 0xd9#8, 0x24#8, 0xb2#8,
     0x76#8, 0x5b#8, 0xa2#8, 0x49#8, 0x6d#8, 0x8b#8, 0xd1#8, 0x25#8]

/-- Row 4 of `STD_ISBOX` (R132). -/
def stdIsboxRow4 : Vector Byte 16 :=
  #v[0x72#8, 0xf8#8, 0xf6#8, 0x64#8, 0x86#8, 0x68#8, 0x98#8, 0x16#8,
     0xd4#8, 0xa4#8, 0x5c#8, 0xcc#8, 0x5d#8, 0x65#8, 0xb6#8, 0x92#8]

/-- Row 5 of `STD_ISBOX` (R132). -/
def stdIsboxRow5 : Vector Byte 16 :=
  #v[0x6c#8, 0x70#8, 0x48#8, 0x50#8, 0xfd#8, 0xed#8, 0xb9#8, 0xda#8,
     0x5e#8, 0x15#8, 0x46#8, 0x57#8, 0xa7#8, 0x8d#8, 0x9d#8, 0x84#8]

/-- Row 6 of `STD_ISBOX` (R132). -/
def stdIsboxRow6 : Vector Byte 16 :=
  #v[0x90#8, 0xd8#8, 0xab#8, 0x00#8, 0x8c#8, 0xbc#8, 0xd3#8, 0x0a#8,
     0xf7#8, 0xe4#8, 0x58#8, 0x05#8, 0xb8#8, 0xb3#8, 0x45#8, 0x06#8]

/-- Row 7 of `STD_ISBOX` (R132). -/
def stdIsboxRow7 : Vector Byte 16 :=
  #v[0xd0#8, 0x2c#8, 0x1e#8, 0x8f#8, 0xca#8, 0x3f#8, 0x0f#8, 0x02#8,
     0xc1#8, 0xaf#8, 0xbd#8, 0x03#8, 0x01#8, 0x13#8, 0x8a#8, 0x6b#8]

/-- Row 8 of `STD_ISBOX` (R132). -/
def stdIsboxRow8 : Vector Byte 16 :=
  #v[0x3a#8, 0x91#8, 0x11#8, 0x41#8, 0x4f#8, 0x67#8, 0xdc#8, 0xea#8,
     0x97#8, 0xf2#8, 0xcf#8, 0xce#8, 0xf0#8, 0xb4#8, 0xe6#8, 0x73#8]

/-- Row 9 of `STD_ISBOX` (R132). -/
def stdIsboxRow9 : Vector Byte 16 :=
  #v[0x96#8, 0xac#8, 0x74#8, 0x22#8, 0xe7#8, 0xad#8, 0x35#8, 0x85#8,
     0xe2#8, 0xf9#8, 0x37#8, 0xe8#8, 0x1c#8, 0x75#8, 0xdf#8, 0x6e#8]

/-- Row a of `STD_ISBOX` (R132). -/
def stdIsboxRowa : Vector Byte 16 :=
  #v[0x47#8, 0xf1#8, 0x1a#8, 0x71#8, 0x1d#8, 0x29#8, 0xc5#8, 0x89#8,
     0x6f#8, 0xb7#8, 0x62#8, 0x0e#8, 0xaa#8, 0x18#8, 0xbe#8, 0x1b#8]

/-- Row b of `STD_ISBOX` (R132). -/
def stdIsboxRowb : Vector Byte 16 :=
  #v[0xfc#8, 0x56#8, 0x3e#8, 0x4b#8, 0xc6#8, 0xd2#8, 0x79#8, 0x20#8,
     0x9a#8, 0xdb#8, 0xc0#8, 0xfe#8, 0x78#8, 0xcd#8, 0x5a#8, 0xf4#8]

/-- Row c of `STD_ISBOX` (R132). -/
def stdIsboxRowc : Vector Byte 16 :=
  #v[0x1f#8, 0xdd#8, 0xa8#8, 0x33#8, 0x88#8, 0x07#8, 0xc7#8, 0x31#8,
     0xb1#8, 0x12#8, 0x10#8, 0x59#8, 0x27#8, 0x80#8, 0xec#8, 0x5f#8]

/-- Row d of `STD_ISBOX` (R132). -/
def stdIsboxRowd : Vector Byte 16 :=
  #v[0x60#8, 0x51#8, 0x7f#8, 0xa9#8, 0x19#8, 0xb5#8, 0x4a#8, 0x0d#8,
     0x2d#8, 0xe5#8, 0x7a#8, 0x9f#8, 0x93#8, 0xc9#8, 0x9c#8, 0xef#8]

/-- Row e of `STD_ISBOX` (R132). -/
def stdIsboxRowe : Vector Byte 16 :=
  #v[0xa0#8, 0xe0#8, 0x3b#8, 0x4d#8, 0xae#8, 0x2a#8, 0xf5#8, 0xb0#8,
     0xc8#8, 0xeb#8, 0xbb#8, 0x3c#8, 0x83#8, 0x53#8, 0x99#8, 0x61#8]

/-- Row f of `STD_ISBOX` (R132). -/
def stdIsboxRowf : Vector Byte 16 :=
  #v[0x17#8, 0x2b#8, 0x04#8, 0x7e#8, 0xba#8, 0x77#8, 0xd6#8, 0x26#8,
     0xe1#8, 0x69#8, 0x14#8, 0x63#8, 0x55#8, 0x21#8, 0x0c#8, 0x7d#8]

/-- The standard AES inverse S-box `STD_ISBOX` (R132). -/
def stdIsbox : Table :=
  #v[stdIsboxRow0, stdIsboxRow1, stdIsboxRow2, stdIsboxRow3,
     stdIsboxRow4, stdIsboxRow5, stdIsboxRow6, stdIsboxRow7,
     stdIsboxRow8, stdIsboxRow9, stdIsboxRowa, stdIsboxRowb,
     stdIsboxRowc, stdIsboxRowd, stdIsboxRowe, stdIsboxRowf]

/-- `RCON[0..11)` (R111). -/
def rcon : List Byte := [0x8d#8, 0x01#8, 0x02#8, 0x04#8, 0x08#8, 0x10#8, 0x20#8, 0x40#8, 0x80#8, 0x1b#8, 0x36#8]

/-- The inverse permutation of a table, computed from it (R135): the byte whose entry is `w`. The table is a
permutation, so there is one. -/
def SBox.inv (t : SBox) (w : Byte) : Byte := (allBytes.find? fun v => t.table.look v == w).getD 0#8

/-- The primary forward S-box `SBOX` (R133). -/
def Params.sboxFn (p : Params) (v : Byte) : Byte :=
  match p.sbox with
  | .standard => stdSbox.look v
  | .experimental t => t.table.look v

/-- The primary inverse S-box `ISBOX` (R133). -/
def Params.isboxFn (p : Params) (v : Byte) : Byte :=
  match p.sbox with
  | .standard => stdIsbox.look v
  | .experimental t => t.inv v

end Sys2Proof
end

