-- ==== Sys2Proof/Machine/Cipher.lean ====
section
/-! DEFINITION. The block cipher pipeline: the round primitives and their inverses (R136 to R145), `Cipher` (R146) and
`InvCipher` (R147). -/

namespace Sys2Proof

/-- `SubBytes` (R136). -/
def subBytes (p : Params) (s : Block) : Block := s.map p.sboxFn

/-- `InvSubBytes` (R137). -/
def invSubBytes (p : Params) (s : Block) : Block := s.map p.isboxFn

/-- `ShiftRows` (R138): row `r` moves left by `r` columns, `s'[r][c] = s[r][(c + r) mod 4]`. -/
def shiftRows (s : Block) : Block where
  c0 := ⟨s.c0.b0, s.c1.b1, s.c2.b2, s.c3.b3⟩
  c1 := ⟨s.c1.b0, s.c2.b1, s.c3.b2, s.c0.b3⟩
  c2 := ⟨s.c2.b0, s.c3.b1, s.c0.b2, s.c1.b3⟩
  c3 := ⟨s.c3.b0, s.c0.b1, s.c1.b2, s.c2.b3⟩

/-- `InvShiftRows` (R139): row `r` moves right by `r` columns, `s'[r][c] = s[r][(c - r) mod 4]`. -/
def invShiftRows (s : Block) : Block where
  c0 := ⟨s.c0.b0, s.c3.b1, s.c2.b2, s.c1.b3⟩
  c1 := ⟨s.c1.b0, s.c0.b1, s.c3.b2, s.c2.b3⟩
  c2 := ⟨s.c2.b0, s.c1.b1, s.c0.b2, s.c3.b3⟩
  c3 := ⟨s.c3.b0, s.c2.b1, s.c1.b2, s.c0.b3⟩

/-- `double`, multiplication by `x` in GF(2^8) (R140). -/
def double (b : Byte) : Byte := (b <<< 1) ^^^ (if b.getLsbD 7 then 0x1b#8 else 0x00#8)

/-- The loop of `mul` from bit `k` of the constant on, for the given number of bits (R140). -/
def mulBits (c : Byte) : Nat → Nat → Byte → Byte → Byte
  | 0, _, acc, _ => acc
  | n + 1, k, acc, d => mulBits c n (k + 1) (if c.getLsbD k then acc ^^^ d else acc) (double d)

/-- `mul(b, c)`: bits 0 to 4 of the constant `c` gate the doublings of `b` (R140). -/
def mul (b c : Byte) : Byte := mulBits c 5 0 0x00#8 b

/-- One column of `MixColumns` (R141). -/
def mixColumn (a : Quad) : Quad where
  b0 := mul a.b0 0x02#8 ^^^ mul a.b1 0x03#8 ^^^ a.b2 ^^^ a.b3
  b1 := a.b0 ^^^ mul a.b1 0x02#8 ^^^ mul a.b2 0x03#8 ^^^ a.b3
  b2 := a.b0 ^^^ a.b1 ^^^ mul a.b2 0x02#8 ^^^ mul a.b3 0x03#8
  b3 := mul a.b0 0x03#8 ^^^ a.b1 ^^^ a.b2 ^^^ mul a.b3 0x02#8

/-- One column of `InvMixColumns` (R142). -/
def invMixColumn (a : Quad) : Quad where
  b0 := mul a.b0 0x0e#8 ^^^ mul a.b1 0x0b#8 ^^^ mul a.b2 0x0d#8 ^^^ mul a.b3 0x09#8
  b1 := mul a.b0 0x09#8 ^^^ mul a.b1 0x0e#8 ^^^ mul a.b2 0x0b#8 ^^^ mul a.b3 0x0d#8
  b2 := mul a.b0 0x0d#8 ^^^ mul a.b1 0x09#8 ^^^ mul a.b2 0x0e#8 ^^^ mul a.b3 0x0b#8
  b3 := mul a.b0 0x0b#8 ^^^ mul a.b1 0x0d#8 ^^^ mul a.b2 0x09#8 ^^^ mul a.b3 0x0e#8

/-- `MixColumns` (R141). -/
def mixColumns (s : Block) : Block := ⟨mixColumn s.c0, mixColumn s.c1, mixColumn s.c2, mixColumn s.c3⟩

/-- `InvMixColumns` (R142). -/
def invMixColumns (s : Block) : Block :=
  ⟨invMixColumn s.c0, invMixColumn s.c1, invMixColumn s.c2, invMixColumn s.c3⟩

/-- `Mix` (R145): `MixColumns`, or `AltSub` (R144) where `MIX_MODE = ALT_SUB`. -/
def mix (p : Params) (s : Block) : Block :=
  match p.mix with
  | .mds => mixColumns s
  | .altSub t => s.map t.table.look

/-- `InvMix` (R145): `InvMixColumns`, or `InvAltSub` (R144). -/
def invMix (p : Params) (s : Block) : Block :=
  match p.mix with
  | .mds => invMixColumns s
  | .altSub t => s.map t.inv

/-- Word `i` of the round-key store; every caller stays below 60 (R40, R143). -/
def rkWord (rk : Vector Quad 60) (i : Nat) : Quad := rk[i]?.getD Machine.zeroQuad

/-- Round key `r`, `RK[16r..16r+16)` (R40). -/
def roundKey (rk : Vector Quad 60) (r : Nat) : Block :=
  ⟨rkWord rk (4 * r), rkWord rk (4 * r + 1), rkWord rk (4 * r + 2), rkWord rk (4 * r + 3)⟩

/-- `AddRoundKey(s, r)` (R143). -/
def addRoundKey (rk : Vector Quad 60) (s : Block) (r : Nat) : Block := s.xor (roundKey rk r)

/-- One full round of `Cipher` (R146). -/
def cipherRound (p : Params) (rk : Vector Quad 60) (s : Block) (r : Nat) : Block :=
  addRoundKey rk (mix p (shiftRows (subBytes p s))) r

/-- Full rounds `r`, `r + 1`, ..., the given number of them (R146). -/
def cipherRounds (p : Params) (rk : Vector Quad 60) : Nat → Nat → Block → Block
  | 0, _, s => s
  | n + 1, r, s => cipherRounds p rk n (r + 1) (cipherRound p rk s r)

/-- `Cipher(b)` with `nr` rounds (R146): the final round has no `Mix`. -/
def cipherBlock (p : Params) (rk : Vector Quad 60) (nr : Nat) (b : Block) : Block :=
  addRoundKey rk (shiftRows (subBytes p (cipherRounds p rk (nr - 1) 1 (addRoundKey rk b 0)))) nr

/-- One full round of `InvCipher` (R147). -/
def invCipherRound (p : Params) (rk : Vector Quad 60) (s : Block) (r : Nat) : Block :=
  invMix p (addRoundKey rk (invSubBytes p (invShiftRows s)) r)

/-- Full inverse rounds `n` down to 1 (R147). -/
def invCipherRounds (p : Params) (rk : Vector Quad 60) : Nat → Block → Block
  | 0, s => s
  | n + 1, s => invCipherRounds p rk n (invCipherRound p rk s (n + 1))

/-- `InvCipher(b)` with `nr` rounds (R147): the last round has no `InvMix`. -/
def invCipherBlock (p : Params) (rk : Vector Quad 60) (nr : Nat) (b : Block) : Block :=
  addRoundKey rk (invSubBytes p (invShiftRows (invCipherRounds p rk (nr - 1) (addRoundKey rk b nr)))) 0

end Sys2Proof
end

