-- ==== Sys2Proof/Machine/KeySchedule.lean ====
section
/-! DEFINITION. The key scheduler (R110 to R117). -/

namespace Sys2Proof

/-- The key size a legal `KS` value names (R92); none for `0b11`. -/
def KeySize.ofBits? (ks : BitVec 2) : Option KeySize :=
  match ks.toNat with
  | 0 => some .k128
  | 1 => some .k192
  | 2 => some .k256
  | _ => none

/-- The `KS` value of a key size (R92), shown in `STATUS` bits 9:8 (R42). -/
def KeySize.bits : KeySize → BitVec 2
  | .k128 => 0b00#2
  | .k192 => 0b01#2
  | .k256 => 0b10#2

/-- `Nk`, the words of the key (R110). -/
def KeySize.nk : KeySize → Nat
  | .k128 => 4
  | .k192 => 6
  | .k256 => 8

/-- `Nr`, the rounds (R110). -/
def KeySize.nr : KeySize → Nat
  | .k128 => 10
  | .k192 => 12
  | .k256 => 14

/-- `RotWord` (R112). -/
def rotWord (a : Quad) : Quad := ⟨a.b1, a.b2, a.b3, a.b0⟩

/-- `SubWord`, always with the primary forward S-box (R113). -/
def subWord (p : Params) (a : Quad) : Quad := a.map p.sboxFn

/-- `temp[0] <- temp[0] ^ RCON[j]` (R115). -/
def addRcon (j : Nat) (a : Quad) : Quad := { a with b0 := a.b0 ^^^ rcon.getD j 0#8 }

/-- Word `i` of a list of words; every caller stays inside the list. -/
def wordAt (ws : List Quad) (i : Nat) : Quad := ws.getD i Machine.zeroQuad

/-- What is added to `word[i - Nk]`: the last word, changed as R115 says. -/
def scheduleTemp (p : Params) (nk i : Nat) (prev : Quad) : Quad :=
  if i % nk = 0 then addRcon (i / nk) (subWord p (rotWord prev))
  else if nk = 8 ∧ i % nk = 4 then subWord p prev
  else prev

/-- `word[i]` for `i` the number of words so far (R115). -/
def nextWord (p : Params) (nk : Nat) (ws : List Quad) : Quad :=
  (wordAt ws (ws.length - nk)).xor (scheduleTemp p nk ws.length (wordAt ws (ws.length - 1)))

/-- The given number of further words (R115). -/
def extendWords (p : Params) (nk : Nat) : Nat → List Quad → List Quad
  | 0, ws => ws
  | n + 1, ws => extendWords p nk n (ws ++ [nextWord p nk ws])

/-- `KeyExpansion(K)` for the `Nk` words of a key (R114, R115): `4(Nr + 1)` words. -/
def keyExpansion (p : Params) (k : KeySize) (key : List Quad) : List Quad :=
  extendWords p k.nk (4 * (k.nr + 1) - k.nk) key

/-- The round-key store after a key load: the expansion, then zero bytes (R118). -/
def roundKeyStore (ws : List Quad) : Vector Quad 60 := Vector.ofFn fun i => wordAt ws i

end Sys2Proof
end

