-- ==== Sys2Proof/Machine/Flags.lean ====
section
/-! DEFINITION. The status words and flags: `STATUS` (R23), `CONFIG` (R22), the `INTSTAT` bits (R25, R211), `irq` (R39)
and the error codes (R200). -/

namespace Sys2Proof

/-- `SBOX_MODE` as `CONFIG` shows it (R22). -/
def Params.sboxBit (p : Params) : Bool :=
  match p.sbox with
  | .standard => false
  | .experimental _ => true

/-- `MIX_MODE` as `CONFIG` shows it (R22). -/
def Params.mixBit (p : Params) : Bool :=
  match p.mix with
  | .mds => false
  | .altSub _ => true

namespace Machine

/-- `INTSTAT.DONE`, bit 0 (R25). -/
def intDone : BitVec 3 := 0b001#3

/-- `INTSTAT.ERR`, bit 1 (R25). -/
def intErr : BitVec 3 := 0b010#3

/-- `INTSTAT.DROP`, bit 2 (R25). -/
def intDrop : BitVec 3 := 0b100#3

/-- The code of an error (R200). -/
def errorCode : Option CmdError → BitVec 4
  | none => 0#4
  | some .illegalCmd => 1#4
  | some .badKeySize => 2#4
  | some .noKey => 3#4
  | some .noIv => 4#4
  | some .badAlign => 5#4
  | some .badRange => 6#4

/-- The word `STATUS` reads as (R23). -/
def State.statusWord (s : State) : Word :=
  0#22 ++ s.ksCur.bits ++ errorCode s.errCode ++ BitVec.ofBool s.err ++ BitVec.ofBool s.ivValid ++
    BitVec.ofBool s.keyValid ++ BitVec.ofBool s.busy

/-- The word `CONFIG` reads as (R22). -/
def configWord (p : Params) : Word :=
  BitVec.ofNat 16 (p.bufBytes / 16) ++ 0#14 ++ BitVec.ofBool p.mixBit ++ BitVec.ofBool p.sboxBit

/-- The three low bits of a written word (R25, R26). -/
def lowThree (v : Word) : BitVec 3 := v.extractLsb' 0 3

/-- The level output `irq` (R39): the enabled OR of the three sources (R211). -/
def State.irq (s : State) : Bool := (s.intstat &&& s.inten) != 0#3

end Machine

end Sys2Proof
end

