-- ==== Sys2Proof/Machine/Operands.lean ====
section
/-! DEFINITION. The operands of the commands (R95): the staged key, the staged IV, and the latched region. Commands
have no immediates and one addressing form. -/

namespace Sys2Proof.Machine

/-- `KEYBYTES[0..4Nk)` as its words: byte `4n + j` is lane `j` of `KEYn` (R30, R12). -/
def State.keyWords (s : State) (k : KeySize) : List Quad := (s.key.toList.take k.nk).map wordLanes

/-- `IVBYTES[0..16)`: byte `4n + j` is lane `j` of `IVINn` (R31). -/
def State.ivBytes (s : State) : Block :=
  ⟨wordLanes s.ivin[0], wordLanes s.ivin[1], wordLanes s.ivin[2], wordLanes s.ivin[3]⟩

/-- `a = LAT.addr`, the offset of the first block (R173). -/
def State.regionStart (s : State) : Nat := s.lat.addr.toNat

/-- `N = LAT.len / 16`, the number of blocks (R173). -/
def State.blockCount (s : State) : Nat := s.lat.len.toNat / 16

end Sys2Proof.Machine
end

