-- ==== Sys2Proof/Machine/Ops.lean ====
section
/-! DEFINITION. The named operations over `BUF` and the registers: `MemRead` and `MemWrite` (R10), the block loop
(R173), acceptance and its checks (R170, R201), rejection (R202), which is what corresponds to trap entry (R209), the
host's acknowledgement (R210), completion (R171), the dropped write (R175) and reset (R230). -/

namespace Sys2Proof.Machine

/-- The value of the byte at `a`; none where no byte is listed (R49). -/
def Memory.read : Memory → Nat → Option Byte
  | [], _ => none
  | (k, v) :: rest, a => if k = a then some v else Memory.read rest a

/-- The memory with the byte `v` at `a`, in canonical form. -/
def Memory.write : Memory → Nat → Byte → Memory
  | [], a, v => [(a, v)]
  | (k, w) :: rest, a, v =>
    if a < k then (a, v) :: (k, w) :: rest
    else if a = k then (a, v) :: rest
    else (k, w) :: Memory.write rest a v

/-- The byte of the data buffer at offset `a`, for a buffer of `limit` bytes; none outside it. -/
def byteAt? (limit : Nat) (buf : Memory) (a : Nat) : Option Byte :=
  if a < limit then Memory.read buf a else none

/-- `MemRead(a, n)` (R10): the first byte that holds no value is the fault of R49. -/
def memRead (limit : Nat) (buf : Memory) (a : Nat) : Nat → Except Fault (List Byte)
  | 0 => .ok []
  | n + 1 =>
    match byteAt? limit buf a with
    | none => .error (.unwrittenRead a)
    | some v =>
      match memRead limit buf (a + 1) n with
      | .error e => .error e
      | .ok l => .ok (v :: l)

/-- `MemWrite(a, n, v)` for the `n` bytes of a list (R10). -/
def memWrite (buf : Memory) (a : Nat) : List Byte → Memory
  | [] => buf
  | v :: l => memWrite (Memory.write buf a v) (a + 1) l

/-- The byte of `BUF` at offset `a`. -/
def State.bufByte? (s : State) (a : Nat) : Option Byte := byteAt? s.params.bufBytes s.buf a

/-- `MemRead(a, 16)` as a block (R173). -/
def readBlock (limit : Nat) (buf : Memory) (a : Nat) : Except Fault Block :=
  match memRead limit buf a 16 with
  | .error e => .error e
  | .ok l => .ok (Block.ofBytes l)

/-- `MemWrite(a, 16, b)` (R173). -/
def writeBlock (buf : Memory) (a : Nat) (b : Block) : Memory := memWrite buf a b.bytes

/-- What a mode does with one block: from the running chaining value and the input block, the output block and the
next chaining value. -/
abbrev BlockStep := Block → Block → Block × Block

/-- The block loop of R173 over `n` blocks from offset `a`: each output is written in place before the next block is
read, and `cv` is threaded. -/
def blockLoop (limit : Nat) (f : BlockStep) : Nat → Nat → Block → Memory → Except Fault (Memory × Block)
  | 0, _, cv, buf => .ok (buf, cv)
  | n + 1, a, cv, buf =>
    match readBlock limit buf a with
    | .error e => .error e
    | .ok b => blockLoop limit f n (a + 16) (f cv b).2 (writeBlock buf a (f cv b).1)

/-- `BUF` and `CV` after a data command: `CV` is written once, after the last block (R173). -/
def State.setRegion (s : State) (buf : Memory) (cv : Block) : State := { s with buf := buf, cv := cv }

/-- The effect of a data command: the block loop over the latched region (R173, R68). -/
def dataEffect (f : BlockStep) (s : State) : Host.Outcome State Fault Refusal :=
  match blockLoop s.params.bufBytes f s.blockCount s.regionStart s.cv s.buf with
  | .error e => .fault e
  | .ok r => .next (s.setRegion r.1 r.2)

/-- `Cipher(b)` with the loaded round keys (R146). -/
def State.cipher (s : State) (b : Block) : Block := cipherBlock s.params s.rk s.ksCur.nr b

/-- `InvCipher(b)` with the loaded round keys (R147). -/
def State.invCipher (s : State) (b : Block) : Block := invCipherBlock s.params s.rk s.ksCur.nr b

/-- `RK`, `KEY_VALID` and `KS_CUR` after a key load (R118). -/
def State.loadKey (s : State) (k : KeySize) : State :=
  { s with rk := roundKeyStore (keyExpansion s.params k (s.keyWords k)), keyValid := true, ksCur := k }

/-- `CV` and `IV_VALID` after an IV load (R176). -/
def State.loadIv (s : State) : State := { s with cv := s.ivBytes, ivValid := true }

/-- The commands that process a region (R201, `data`). -/
def isData : Instr → Bool
  | .initKey _ => false
  | .initKeyIv _ => false
  | .setIv => false
  | .ecbEnc => true
  | .ecbDec => true
  | .cbcEnc => true
  | .cbcDec => true
  | .ctrXcrypt => true

/-- The commands that use `CV` (R201, `chain`). -/
def isChaining : Instr → Bool
  | .initKey _ => false
  | .initKeyIv _ => false
  | .setIv => false
  | .ecbEnc => false
  | .ecbDec => false
  | .cbcEnc => true
  | .cbcDec => true
  | .ctrXcrypt => true

/-- The checks of R201 on a command, in their order. The first is the last check of decoding (R97), which a decoded
command has passed. -/
def checkCommand (i : Instr) (s : State) : Option CmdError :=
  if i.wellFormed = false then some .badKeySize
  else if isData i ∧ s.keyValid = false then some .noKey
  else if isChaining i ∧ s.ivValid = false then some .noIv
  else if isData i ∧ (s.addr.toNat % 16 ≠ 0 ∨ s.len.toNat % 16 ≠ 0) then some .badAlign
  else if isData i ∧ s.addr.toNat + s.len.toNat > s.params.bufBytes then some .badRange
  else none

/-- `raise CmdError(e)`: rejection, which is what corresponds to trap entry (R202, R209). -/
def State.reject (s : State) (e : CmdError) : State :=
  { s with err := true, errCode := some e, intstat := s.intstat ||| intDone ||| intErr }

/-- The host's acknowledgement, which is what corresponds to trap return (R210): `INTSTAT` bits written as 1 are
cleared (R25). -/
def State.acknowledge (s : State) (v : Word) : State := { s with intstat := s.intstat &&& ~~~(lowThree v) }

/-- Acceptance (R170): the error flags cleared, the latch filled, `BUSY` set. -/
def State.accept (s : State) (i : Instr) : State :=
  { s with err := false, errCode := none, lat := ⟨i.opcode, i.ksBits, s.addr, s.len⟩, busy := true }

/-- The end of every completion (R171). -/
def State.finish (s : State) : State := { s with busy := false, intstat := s.intstat ||| intDone }

/-- A `CMD` write of a decoded command outside the BUSY window: checked, then accepted or rejected (R170, R201). -/
def submitCommand (i : Instr) (s : State) : State :=
  match checkCommand i s with
  | some e => s.reject e
  | none => s.accept i

/-- The two events of a command (log entry 7). With `BUSY = 0` it is its submission (R170). With `BUSY = 1` it is its
completion: the effect, then `BUSY <- 0` and `INTSTAT.DONE <- 1`, as one event (R171). -/
def lifecycle (i : Instr) (effect : State → Host.Outcome State Fault Refusal) (s : State) :
    Host.Outcome State Fault Refusal :=
  if s.busy then
    match effect s with
    | .next t => .next t.finish
    | .fault e => .fault e
    | .refused r => .refused r
  else .next (submitCommand i s)

/-- `ADDR <- v` (R28). -/
def State.setAddr (s : State) (v : Word) : State := { s with addr := v }

/-- `LEN <- v` (R29). -/
def State.setLen (s : State) (v : Word) : State := { s with len := v }

/-- `KEYn <- v` (R30). -/
def State.setKey (s : State) (n : Fin 8) (v : Word) : State := { s with key := s.key.set n v }

/-- `IVINn <- v` (R31). -/
def State.setIvin (s : State) (n : Fin 4) (v : Word) : State := { s with ivin := s.ivin.set n v }

/-- `INTEN <- v`: bits 31:3 are ignored (R26). -/
def State.setInten (s : State) (v : Word) : State := { s with inten := lowThree v }

/-- The four lanes of `v` into word `n` of `BUF` (R65). -/
def State.setBufWord (s : State) (n : Nat) (v : Word) : State :=
  { s with buf := memWrite s.buf (4 * n) (wordLanes v).bytes }

/-- A write dropped in the BUSY window (R175). -/
def State.dropWrite (s : State) : State := { s with intstat := s.intstat ||| intDrop }

/-- The bus response of a transaction (R60). -/
def State.respond (s : State) (r : BusResponse) : State := { s with resp := some r }

/-- A transaction that the engine does not perform, because `rst_n` is low: it gets no response (R230). -/
def State.noResponse (s : State) : State := { s with resp := none }

/-- The events that remain (log entry 2). -/
def State.withAgenda (s : State) (rest : List Event) : State := { s with agenda := rest }

/-- `rst_n` goes low: every piece of state takes its reset value (R230, R48), and no response stands (log entry 4). The
arguments of the step relation are no state and stay (R46). -/
def State.assertReset (s : State) : State :=
  { s with toEngine := { Engine.initial with rstN := false }, resp := none }

/-- `rst_n` goes high (R230). -/
def State.releaseReset (s : State) : State := { s with rstN := true }

end Sys2Proof.Machine
end

