-- ==== Sys2Proof/Machine/KeyLoad.lean ====
section
/-! DEFINITION. The key-load commands (R118, R119). -/

namespace Sys2Proof.Machine

/-- `INIT_KEY` (R118). Its completion on `KS = 0b11`, which no latch holds (R172), is a fault. -/
def execInitKey (ks : BitVec 2) (s : State) : Host.Outcome State Fault Refusal :=
  lifecycle (.initKey ks)
    (fun s =>
      match KeySize.ofBits? ks with
      | some k => .next (s.loadKey k)
      | none => .fault (.illegalLatch 0x1#4 ks))
    s

/-- `INIT_KEY_IV` (R119). -/
def execInitKeyIv (ks : BitVec 2) (s : State) : Host.Outcome State Fault Refusal :=
  lifecycle (.initKeyIv ks)
    (fun s =>
      match KeySize.ofBits? ks with
      | some k => .next (s.loadKey k).loadIv
      | none => .fault (.illegalLatch 0x2#4 ks))
    s

end Sys2Proof.Machine
end

