-- ==== Sys2Proof/Machine/ModeDriver.lean ====
section
/-! DEFINITION. The mode multiplexer: `SET_IV` (R176), the five data commands (R177 to R181) and the counter (R182). -/

namespace Sys2Proof.Machine

/-- One more, on bytes from the least significant on, with carry and wrap (R182). -/
def incBytes : List Byte → List Byte
  | [] => []
  | b :: rest => if b = 0xff#8 then 0x00#8 :: incBytes rest else (b + 1#8) :: rest

/-- `Inc128(cv)`: byte 15 is the least significant (R182). -/
def inc128 (cv : Block) : Block := Block.ofBytes (incBytes cv.bytes.reverse).reverse

/-- One block of `ECB_ENC` (R177). -/
def ecbEncStep (s : State) : BlockStep := fun cv b => (s.cipher b, cv)

/-- One block of `ECB_DEC` (R178). -/
def ecbDecStep (s : State) : BlockStep := fun cv b => (s.invCipher b, cv)

/-- One block of `CBC_ENC` (R179): the next chaining value is the ciphertext. -/
def cbcEncStep (s : State) : BlockStep := fun cv b => (s.cipher (b.xor cv), s.cipher (b.xor cv))

/-- One block of `CBC_DEC` (R180): the next chaining value is the saved ciphertext. -/
def cbcDecStep (s : State) : BlockStep := fun cv c => ((s.invCipher c).xor cv, c)

/-- One block of `CTR_XCRYPT` (R181): the keystream is the forward cipher of the counter. -/
def ctrStep (s : State) : BlockStep := fun cv b => (b.xor (s.cipher cv), inc128 cv)

/-- `SET_IV` (R176). -/
def execSetIv (s : State) : Host.Outcome State Fault Refusal :=
  lifecycle .setIv (fun s => .next s.loadIv) s

/-- `ECB_ENC` (R177). -/
def execEcbEnc (s : State) : Host.Outcome State Fault Refusal :=
  lifecycle .ecbEnc (fun s => dataEffect (ecbEncStep s) s) s

/-- `ECB_DEC` (R178). -/
def execEcbDec (s : State) : Host.Outcome State Fault Refusal :=
  lifecycle .ecbDec (fun s => dataEffect (ecbDecStep s) s) s

/-- `CBC_ENC` (R179). -/
def execCbcEnc (s : State) : Host.Outcome State Fault Refusal :=
  lifecycle .cbcEnc (fun s => dataEffect (cbcEncStep s) s) s

/-- `CBC_DEC` (R180). -/
def execCbcDec (s : State) : Host.Outcome State Fault Refusal :=
  lifecycle .cbcDec (fun s => dataEffect (cbcDecStep s) s) s

/-- `CTR_XCRYPT` (R181). -/
def execCtrXcrypt (s : State) : Host.Outcome State Fault Refusal :=
  lifecycle .ctrXcrypt (fun s => dataEffect (ctrStep s) s) s

end Sys2Proof.Machine
end

