-- ==== Sys2Proof/Machine/Dispatch.lean ====
section
/-! DEFINITION. One arm per command (R172): its submission with `BUSY = 0`, its completion with `BUSY = 1`. -/

namespace Sys2Proof.Machine

def exec (i : Instr) (s : State) : Host.Outcome State Fault Refusal :=
  match i with
  | .initKey ks => Sys2Proof.Machine.execInitKey ks s
  | .initKeyIv ks => Sys2Proof.Machine.execInitKeyIv ks s
  | .setIv => Sys2Proof.Machine.execSetIv s
  | .ecbEnc => Sys2Proof.Machine.execEcbEnc s
  | .ecbDec => Sys2Proof.Machine.execEcbDec s
  | .cbcEnc => Sys2Proof.Machine.execCbcEnc s
  | .cbcDec => Sys2Proof.Machine.execCbcDec s
  | .ctrXcrypt => Sys2Proof.Machine.execCtrXcrypt s

end Sys2Proof.Machine
end

