-- ==== Sys2Proof/Machine/Port.lean ====
section
/-! DEFINITION. The host port: the address map (R61), reads and writes of every register (R22 to R35, R62 to R66,
R175), the engine's step (R171), and what each event does. -/

namespace Sys2Proof.Machine

/-- What an aligned offset names (R61). `buf n` is word `n` of the `BUF` window. -/
inductive Reg where
  | config
  | status
  | intstat
  | inten
  | cmd
  | addr
  | len
  | key (n : Fin 8)
  | ivin (n : Fin 4)
  | cv (n : Fin 4)
  | rk (n : Fin 60)
  | buf (n : Nat)
  | reserved
deriving DecidableEq, Repr

/-- The address map of R61, for an aligned offset and a buffer of `bufBytes` bytes. -/
def regAt (bufBytes : Nat) (off : Nat) : Reg :=
  if off = 0x0000 then .config
  else if off = 0x0004 then .status
  else if off = 0x0008 then .intstat
  else if off = 0x000C then .inten
  else if off = 0x0010 then .cmd
  else if off = 0x0014 then .addr
  else if off = 0x0018 then .len
  else if h : 0x0020 ≤ off ∧ off < 0x0040 then .key ⟨(off - 0x0020) / 4, by omega⟩
  else if h : 0x0040 ≤ off ∧ off < 0x0050 then .ivin ⟨(off - 0x0040) / 4, by omega⟩
  else if h : 0x0050 ≤ off ∧ off < 0x0060 then .cv ⟨(off - 0x0050) / 4, by omega⟩
  else if h : 0x0100 ≤ off ∧ off < 0x01F0 then .rk ⟨(off - 0x0100) / 4, by omega⟩
  else if 0x1000 ≤ off ∧ off < 0x1000 + bufBytes then .buf ((off - 0x1000) / 4)
  else .reserved

/-- The offset of a register (R61), for host programs (R100). -/
def Reg.offset : Reg → BitVec 16
  | .config => 0x0000#16
  | .status => 0x0004#16
  | .intstat => 0x0008#16
  | .inten => 0x000C#16
  | .cmd => 0x0010#16
  | .addr => 0x0014#16
  | .len => 0x0018#16
  | .key n => BitVec.ofNat 16 (0x0020 + 4 * n.val)
  | .ivin n => BitVec.ofNat 16 (0x0040 + 4 * n.val)
  | .cv n => BitVec.ofNat 16 (0x0050 + 4 * n.val)
  | .rk n => BitVec.ofNat 16 (0x0100 + 4 * n.val)
  | .buf n => BitVec.ofNat 16 (0x1000 + 4 * n)
  | .reserved => 0x001C#16

/-- Word `n` of the `BUF` window (R65); a byte that holds no value is the fault of R49. -/
def readBufWord (s : State) (n : Nat) : Except Fault Word :=
  match memRead s.params.bufBytes s.buf (4 * n) 4 with
  | .error e => .error e
  | .ok l => .ok (laneWord (Quad.ofBytes l))

/-- The value a read of a register returns (R22 to R35). Inside the BUSY window `CV`, `RK` and `BUF` read 0 (R175). -/
def readReg (r : Reg) (s : State) : Except Fault Word :=
  match r with
  | .config => .ok (configWord s.params)
  | .status => .ok s.statusWord
  | .intstat => .ok (s.intstat.setWidth 32)
  | .inten => .ok (s.inten.setWidth 32)
  | .cmd => .ok 0#32
  | .addr => .ok s.addr
  | .len => .ok s.len
  | .key n => .ok s.key[n]
  | .ivin n => .ok s.ivin[n]
  | .cv n => if s.busy then .ok 0#32 else .ok (laneWord (s.cv.col n))
  | .rk n => if s.busy then .ok 0#32 else .ok (laneWord s.rk[n])
  | .buf n => if s.busy then .ok 0#32 else readBufWord s n
  | .reserved => .ok 0#32

/-- `Read(off)` (R60, R64). -/
def hostRead (off : BitVec 16) (s : State) : Host.Outcome State Fault Refusal :=
  if off.toNat % 4 ≠ 0 then .next (s.respond (.read false 0#32))
  else
    match readReg (regAt s.params.bufBytes off.toNat) s with
    | .error e => .fault e
    | .ok w => .next (s.respond (.read true w))

/-- A word written to `CMD` outside the BUSY window (R170, R201): an encoding error rejects it, and a decoded command
runs its submission. -/
def submitWord (w : Word) (s : State) : Host.Outcome State Fault Refusal :=
  match decode w with
  | .error e => .next (s.reject e)
  | .ok i => exec i s

/-- A write to a register other than `INTSTAT` and `INTEN`, outside the BUSY window (R27 to R35): read-only and reserved
offsets ignore it. -/
def writeReg (r : Reg) (v : Word) (s : State) : Host.Outcome State Fault Refusal :=
  match r with
  | .cmd => submitWord v s
  | .addr => .next (s.setAddr v)
  | .len => .next (s.setLen v)
  | .key n => .next (s.setKey n v)
  | .ivin n => .next (s.setIvin n v)
  | .buf n => .next (s.setBufWord n v)
  | .intstat => .next (s.acknowledge v)
  | .inten => .next (s.setInten v)
  | .config => .next s
  | .status => .next s
  | .cv _ => .next s
  | .rk _ => .next s
  | .reserved => .next s

/-- The registers whose writes are performed inside the BUSY window too (R25, R26). -/
def Reg.writableWhileBusy : Reg → Bool
  | .intstat => true
  | .inten => true
  | _ => false

/-- `Write(off, v)` (R60, R64, R175, R208): a misaligned offset is a bus error and nothing else; then a write in the
BUSY window is dropped unless it is to `INTSTAT` or `INTEN`; then it is performed. -/
def hostWrite (off : BitVec 16) (v : Word) (s : State) : Host.Outcome State Fault Refusal :=
  if off.toNat % 4 ≠ 0 then .next (s.respond (.write false))
  else if s.busy ∧ (regAt s.params.bufBytes off.toNat).writableWhileBusy = false then
    .next (s.dropWrite.respond (.write true))
  else writeReg (regAt s.params.bufBytes off.toNat) v (s.respond (.write true))

/-- The engine's step (R171, R172): the completion of the latched command, enabled exactly when `BUSY = 1`. -/
def engineStep (s : State) : Host.Outcome State Fault Refusal :=
  if s.busy then
    match decodeFields s.lat.op s.lat.ks with
    | .ok i => exec i s
    | .error _ => .fault (.illegalLatch s.lat.op s.lat.ks)
  else .next s

/-- What an event does. While `rst_n` is low the engine performs no transaction and takes no completion step (R230). -/
def runEvent (e : Event) (s : State) : Host.Outcome State Fault Refusal :=
  match e with
  | .hostRead off => if s.rstN then hostRead off s else .next s.noResponse
  | .hostWrite off v => if s.rstN then hostWrite off v s else .next s.noResponse
  | .engine => if s.rstN then engineStep s else .next s
  | .assertReset => .next s.assertReset
  | .releaseReset => .next s.releaseReset

/-- The next event and the state in which it happens. With no event left the engine has its turn: an accepted command
is eventually completed (R171, R240; log entry 3), and an idle engine waits for the host (R232). -/
def nextEvent (s : State) : Event × State :=
  match s.agenda with
  | [] => (.engine, s)
  | e :: rest => (e, s.withAgenda rest)

/-- A `CMD` write of the word as the next event of a state that will fetch it: `rst_n` high and no command in flight
(log entry 10). -/
def withCommandWord (s : State) (w : Word) : State :=
  { s with agenda := .hostWrite Reg.cmd.offset w :: s.agenda, busy := false, rstN := true }

end Sys2Proof.Machine
end

