-- ==== Sys2Proof/Machine/Step.lean ====
section
/-! DEFINITION. One step: the next event of the total order of R72. -/

namespace Sys2Proof.Machine

/-- One event, atomic (R67, R72). -/
def step (s : State) : Host.Outcome State Fault Refusal := runEvent (nextEvent s).1 (nextEvent s).2

/-- The state in which the next step fetches and runs the command word `w` (log entry 10). -/
def State.withFetchWord (s : State) (nbits w : Nat) : State := withCommandWord s (tableWord nbits w)

end Sys2Proof.Machine
end

