-- ==== Sys2Proof/Machine/Engine.lean ====
section
/-! DEFINITION. The step relation over the engine's state alone, with the instance, the event and, for a run, the host's
program with the commands' durations as its arguments (R46). -/

namespace Sys2Proof.Machine

/-- The engine's state where one event is to happen in an instance: the state the operations take. -/
def Engine.under (x : Engine) (p : Params) : State := { toEngine := x, params := p, agenda := [], resp := none }

/-- What an event did to the engine, and the response of a transaction. -/
def engineOutcome (o : Host.Outcome State Fault Refusal) : Host.Outcome (Engine × Option BusResponse) Fault Refusal :=
  match o with
  | .next t => .next (t.toEngine, t.resp)
  | .fault e => .fault e
  | .refused r => .refused r

/-- The step relation of R46: in the instance `p`, the event `e` takes the engine from `x` to the next state and answers a
response (none for an event that is no transaction, and while `rst_n` is low). -/
def Engine.next (p : Params) (e : Event) (x : Engine) : Host.Outcome (Engine × Option BusResponse) Fault Refusal :=
  engineOutcome (runEvent e (x.under p))

/-- The run of an instance over a host program. `LATENCY` is where the engine's turns stand among the host's transactions
(R171, R240); the responses are in the order of the events. -/
def Engine.run (p : Params) : List Event → Engine → Host.Outcome (Engine × List (Option BusResponse)) Fault Refusal
  | [], x => .next (x, [])
  | e :: rest, x =>
    match Engine.next p e x with
    | .fault f => .fault f
    | .refused r => .refused r
    | .next y =>
      match Engine.run p rest y.1 with
      | .next z => .next (z.1, y.2 :: z.2)
      | .fault f => .fault f
      | .refused r => .refused r

/-- Whether an event sets the last response: a transaction does, answered or not, and so does the assertion of reset (log
entry 4). -/
def Event.setsResponse : Event → Bool
  | .hostRead _ => true
  | .hostWrite _ _ => true
  | .assertReset => true
  | .engine => false
  | .releaseReset => false

end Sys2Proof.Machine
end

