-- ==== Sys2Proof/Safety.lean ====
section
/-! DEFINITION. The terms in which claims speak: the invariant of every run, what a run's end and its observation are
(R241), and when a region or word of `BUF` may be read (R233, R242). -/

namespace Sys2Proof.Machine

/-- Every byte of `BUF[a..a+n)` holds a value (R49, R233 step 4). -/
def State.readable (s : State) (a n : Nat) : Prop := ∀ o, a ≤ o → o < a + n → (s.bufByte? o).isSome = true

/-- The block at offset `a` of `BUF`, where all its bytes hold a value. -/
def State.blockAt? (s : State) (a : Nat) : Option Block :=
  match readBlock s.params.bufBytes s.buf a with
  | .ok b => some b
  | .error _ => none

/-- What every run keeps true of the state, from the rules that say so. -/
structure Invariant (s : State) : Prop where
  /-- The buffer keeps its canonical form. -/
  bufCanonical : Memory.wf s.buf
  /-- Only bytes of the buffer hold values (R34). -/
  bufInside : ∀ c ∈ s.buf, c.1 < s.params.bufBytes
  /-- `ERR` is set exactly when a code is shown (R24, R202). -/
  errShowsCode : s.err = s.errCode.isSome
  /-- Without a key: no round keys, key size 0 (R42, R48). -/
  noKey : s.keyValid = false → s.ksCur = .k128 ∧ s.rk = Vector.replicate 60 zeroQuad
  /-- The words past `4(Nr + 1)` are zero (R40). -/
  rkTail : ∀ i, 4 * (s.ksCur.nr + 1) ≤ i → i < 60 → rkWord s.rk i = zeroQuad
  /-- Without an IV the chaining value is zero (R41). -/
  noIv : s.ivValid = false → s.cv = zeroBlock
  /-- Inside the BUSY window the latch holds a legal command (R172) whose checks passed (R170, R201), and the
  parameter registers and the error flags are as acceptance left them (R24, R175). -/
  latched : s.busy = true → ∃ i, decodeFields s.lat.op s.lat.ks = .ok i ∧
    s.lat.addr = s.addr ∧ s.lat.len = s.len ∧ s.err = false ∧
    (isChaining i = true → s.ivValid = true) ∧
    (isData i = true → s.keyValid = true ∧ s.addr.toNat % 16 = 0 ∧ s.len.toNat % 16 = 0 ∧
      s.addr.toNat + s.len.toNat ≤ s.params.bufBytes)
  /-- While `rst_n` is low every piece of state has its reset value (R230). -/
  heldInReset : s.rstN = false → s.toEngine = { Engine.initial with rstN := false }

/-- A run of a host program has ended: its last transaction is made and `BUSY = 0` (R241). -/
def State.runEnded (s : State) : Bool := s.agenda.isEmpty && !s.busy

/-- What a run's end shows (R241): the host-visible registers in the order of R61, the `BUF` bytes that hold a value,
and `irq`. -/
structure Observation where
  config : Word
  status : Word
  intstat : Word
  inten : Word
  addr : Word
  len : Word
  key : Vector Word 8
  ivin : Vector Word 4
  cv : List Word
  rk : List Word
  buf : Memory
  irq : Bool
deriving DecidableEq, Repr

/-- The observation of a state (R241). -/
def State.observe (s : State) : Observation where
  config := configWord s.params
  status := s.statusWord
  intstat := s.intstat.setWidth 32
  inten := s.inten.setWidth 32
  addr := s.addr
  len := s.len
  key := s.key
  ivin := s.ivin
  cv := [laneWord s.cv.c0, laneWord s.cv.c1, laneWord s.cv.c2, laneWord s.cv.c3]
  rk := s.rk.toList.map laneWord
  buf := s.buf
  irq := s.irq

end Sys2Proof.Machine
end

