-- ==== Sys2Proof/Certificates/Slice0/Obligations.lean ====
section
/-! DEFINITION. The statements for the provers. Each formalises a numbered rule of spec/, or rests on the sections it
names. Hypotheses speak of the state and the operands alone; every next state is written out, so its frame is part of
the statement. -/

open Sys2Proof Sys2Proof.Machine

/-! ## Encoding (30_encoding.md) -/

/-- R99: the twelve legal words and what they decode to, the two words rejected for their key size, and `ILLEGAL_CMD`
for every other word. -/
def Obligations.DecodeFollowsTheLegalWords : Prop :=
  ∀ w : Word,
    (∀ i : Instr, decode w = .ok i ↔ (w, i) ∈
      [(0x00000001#32, Instr.initKey 0b00#2), (0x00000011#32, Instr.initKey 0b01#2),
       (0x00000021#32, Instr.initKey 0b10#2), (0x00000002#32, Instr.initKeyIv 0b00#2),
       (0x00000012#32, Instr.initKeyIv 0b01#2), (0x00000022#32, Instr.initKeyIv 0b10#2),
       (0x00000003#32, Instr.setIv), (0x00000004#32, Instr.ecbEnc), (0x00000005#32, Instr.ecbDec),
       (0x00000006#32, Instr.cbcEnc), (0x00000007#32, Instr.cbcDec), (0x00000008#32, Instr.ctrXcrypt)]) ∧
    (decode w = .error .badKeySize ↔ w = 0x00000031#32 ∨ w = 0x00000032#32) ∧
    (∀ e : CmdError, decode w = .error e → e = .badKeySize ∨ e = .illegalCmd)

/-- Decoding and encoding agree, for every word and every command: a word decodes to a command exactly when the command
is well formed and encodes to that word (R90, R97). -/
def Obligations.DecodeAndEncodeAgree : Prop :=
  ∀ (w : Word) (i : Instr), decode w = .ok i ↔ i.wellFormed = true ∧ encode i = w

/-! ## The step and the command lifecycle (42_mode_driver.md, 60_exceptions.md) -/

/-- A step runs the decoded command: the `CMD` write of a word that decodes runs the command's submission, the engine's
turn with a command latched runs its completion, with or without an event left in the agenda, and the fetch word is
such a `CMD` write (R170, R171, R172). The form of the step is the model's (log entries 2, 3, 7, 10). -/
def Obligations.StepRunsTheDecodedCommand : Prop :=
  (∀ (s : State) (w : Word) (i : Instr) (rest : List Event),
    s.agenda = .hostWrite 0x0010#16 w :: rest → s.rstN = true → s.busy = false → decode w = .ok i →
    step s = exec i { s with agenda := rest, resp := some (.write true) }) ∧
  (∀ (s : State) (i : Instr) (rest : List Event),
    s.agenda = .engine :: rest → s.rstN = true → s.busy = true → decodeFields s.lat.op s.lat.ks = .ok i →
    step s = exec i { s with agenda := rest }) ∧
  (∀ (s : State) (i : Instr),
    s.agenda = [] → s.rstN = true → s.busy = true → decodeFields s.lat.op s.lat.ks = .ok i →
    step s = exec i s) ∧
  (∀ (s : State) (w : Nat) (i : Instr), decode (BitVec.ofNat 32 w) = .ok i → w < 2 ^ 32 →
    step (s.withFetchWord 32 w) = exec i { s with busy := false, rstN := true, resp := some (.write true) })

/-- R201, R202, R170: a `CMD` write outside the BUSY window makes the checks in their order on the word and the state; the
first that fails rejects the command with its code and changes nothing else, and with none failing it is accepted, which
changes nothing but the error flags, the latch and `BUSY`. -/
def Obligations.CmdWriteChecksInOrder : Prop :=
  ∀ (s : State) (w : Word) (rest : List Event),
    s.agenda = .hostWrite 0x0010#16 w :: rest → s.rstN = true → s.busy = false →
    let s' : State := { s with agenda := rest, resp := some (.write true) }
    let rejected (e : CmdError) : State :=
      { s' with err := true, errCode := some e, intstat := s.intstat ||| 0b011#3 }
    let data : List Instr := [.ecbEnc, .ecbDec, .cbcEnc, .cbcDec, .ctrXcrypt]
    let chain : List Instr := [.cbcEnc, .cbcDec, .ctrXcrypt]
    step s = .next (
      match decode w with
      | .error e => rejected e
      | .ok i =>
        if i ∈ data ∧ s.keyValid = false then rejected .noKey
        else if i ∈ chain ∧ s.ivValid = false then rejected .noIv
        else if i ∈ data ∧ (s.addr.toNat % 16 ≠ 0 ∨ s.len.toNat % 16 ≠ 0) then rejected .badAlign
        else if i ∈ data ∧ s.addr.toNat + s.len.toNat > s.params.bufBytes then rejected .badRange
        else { s' with err := false, errCode := none, busy := true,
                       lat := ⟨w.extractLsb' 0 4, w.extractLsb' 4 2, s.addr, s.len⟩ })

/-- R170: every command whose checks pass is accepted outside the BUSY window, and nothing else changes. -/
def Obligations.CheckedCommandIsAccepted : Prop :=
  ∀ (i : Instr) (s : State), s.busy = false → i.wellFormed = true →
    (i ∈ [Instr.ecbEnc, .ecbDec, .cbcEnc, .cbcDec, .ctrXcrypt] →
      s.keyValid = true ∧ s.addr.toNat % 16 = 0 ∧ s.len.toNat % 16 = 0 ∧
        s.addr.toNat + s.len.toNat ≤ s.params.bufBytes) →
    (i ∈ [Instr.cbcEnc, .cbcDec, .ctrXcrypt] → s.ivValid = true) →
    exec i s = .next { s with err := false, errCode := none, busy := true,
                              lat := ⟨i.opcode, i.ksBits, s.addr, s.len⟩ } ∧
      decodeFields i.opcode i.ksBits = .ok i

/-! ## Key scheduler (40_key_schedule.md) -/

/-- R114, R115: the expansion has `4(Nr + 1)` words, starts with the key, and every further word is computed from the one
before it and the one `Nk` before it as R115 says. -/
def Obligations.KeyExpansionFollowsTheRecurrence : Prop :=
  ∀ (p : Params) (k : KeySize) (nk nr : Nat) (key : List Quad),
    (k, nk, nr) ∈ [(KeySize.k128, 4, 10), (KeySize.k192, 6, 12), (KeySize.k256, 8, 14)] → key.length = nk →
    (keyExpansion p k key).length = 4 * (nr + 1) ∧
    (∀ i < nk, (keyExpansion p k key)[i]? = key[i]?) ∧
    (∀ i, nk ≤ i → i < 4 * (nr + 1) → ∃ prev back : Quad,
      (keyExpansion p k key)[i - 1]? = some prev ∧ (keyExpansion p k key)[i - nk]? = some back ∧
      (keyExpansion p k key)[i]? = some (back.xor (
        if i % nk = 0 then
          ⟨p.sboxFn prev.b1 ^^^ rcon.getD (i / nk) 0#8, p.sboxFn prev.b2, p.sboxFn prev.b3, p.sboxFn prev.b0⟩
        else if nk = 8 ∧ i % nk = 4 then
          ⟨p.sboxFn prev.b0, p.sboxFn prev.b1, p.sboxFn prev.b2, p.sboxFn prev.b3⟩
        else prev)))

/-- The completion of `INIT_KEY` (R118, R171): the round keys, the cleared tail, the flags, and nothing else. -/
def Obligations.InitKeyCompletes : Prop :=
  ∀ (ks : BitVec 2) (k : KeySize) (nk nr : Nat) (s : State),
    (ks, k, nk, nr) ∈ [(0b00#2, KeySize.k128, 4, 10), (0b01#2, KeySize.k192, 6, 12), (0b10#2, KeySize.k256, 8, 14)] →
    s.busy = true →
    ∃ t, exec (.initKey ks) s = .next t ∧
      t = { s with rk := t.rk, keyValid := true, ksCur := k, busy := false, intstat := s.intstat ||| 0b001#3 } ∧
      (∀ (i : Nat) (h : i < 60), i < 4 * (nr + 1) →
        (keyExpansion s.params k ((s.key.toList.take nk).map wordLanes))[i]? = some t.rk[i]) ∧
      (∀ (i : Nat) (h : i < 60), 4 * (nr + 1) ≤ i → t.rk[i] = ⟨0#8, 0#8, 0#8, 0#8⟩)

/-- The completion of `INIT_KEY_IV` (R119, R171): as `INIT_KEY`, and the staged IV in `CV`. -/
def Obligations.InitKeyIvCompletes : Prop :=
  ∀ (ks : BitVec 2) (k : KeySize) (nk nr : Nat) (s : State),
    (ks, k, nk, nr) ∈ [(0b00#2, KeySize.k128, 4, 10), (0b01#2, KeySize.k192, 6, 12), (0b10#2, KeySize.k256, 8, 14)] →
    s.busy = true →
    ∃ t, exec (.initKeyIv ks) s = .next t ∧
      t = { s with rk := t.rk, keyValid := true, ksCur := k, ivValid := true, busy := false,
                   intstat := s.intstat ||| 0b001#3,
                   cv := ⟨wordLanes s.ivin[0], wordLanes s.ivin[1], wordLanes s.ivin[2], wordLanes s.ivin[3]⟩ } ∧
      (∀ (i : Nat) (h : i < 60), i < 4 * (nr + 1) →
        (keyExpansion s.params k ((s.key.toList.take nk).map wordLanes))[i]? = some t.rk[i]) ∧
      (∀ (i : Nat) (h : i < 60), 4 * (nr + 1) ≤ i → t.rk[i] = ⟨0#8, 0#8, 0#8, 0#8⟩)

/-- The effect of `INIT_KEY_IV` equals `INIT_KEY` with the same `KS` followed by `SET_IV` (R119, corner cases). -/
def Obligations.InitKeyIvIsInitKeyThenSetIv : Prop :=
  ∀ (ks : BitVec 2) (s : State), ks ≠ 0b11#2 → s.busy = true →
    ∃ t u, exec (.initKey ks) s = .next t ∧ exec .setIv { t with busy := true } = .next u ∧
      exec (.initKeyIv ks) s = .next u

/-- The completion of `SET_IV` (R176, R171): byte `4n + j` of `CV` is lane `j` of `IVINn` (R31), and nothing else but the
flags changes. -/
def Obligations.SetIvCompletes : Prop :=
  ∀ s : State, s.busy = true →
    ∃ t, exec .setIv s = .next t ∧
      t = { s with cv := t.cv, ivValid := true, busy := false, intstat := s.intstat ||| 0b001#3 } ∧
      ∀ n j : Fin 4, t.cv.byte (4 * n + j) = s.ivin[n].extractLsb' (8 * j) 8

/-! ## Block cipher pipeline (41_state_transform.md) -/

/-- R148: for every loaded key, every instance and every block, `InvCipher(Cipher(b)) = b` and
`Cipher(InvCipher(b)) = b`. -/
def Obligations.InvCipherInvertsCipher : Prop :=
  ∀ (s : State) (b : Block), s.invCipher (s.cipher b) = b ∧ s.cipher (s.invCipher b) = b

/-- Each round primitive and its inverse undo each other, both ways, in every instance (R137, R139, R142, R143, R145). -/
def Obligations.RoundPrimitivesHaveInverses : Prop :=
  ∀ (p : Params) (rk : Vector Quad 60) (r : Nat) (b : Block),
    (invSubBytes p (subBytes p b) = b ∧ subBytes p (invSubBytes p b) = b) ∧
    (invShiftRows (shiftRows b) = b ∧ shiftRows (invShiftRows b) = b) ∧
    (invMixColumns (mixColumns b) = b ∧ mixColumns (invMixColumns b) = b) ∧
    (invMix p (mix p b) = b ∧ mix p (invMix p b) = b) ∧
    addRoundKey rk (addRoundKey rk b r) r = b

/-- R136 to R139, R143, byte by byte: the substitutions, the row rotations and the round-key XOR. -/
def Obligations.RoundPrimitivesByByte : Prop :=
  ∀ (p : Params) (rk : Vector Quad 60) (b : Block),
    (∀ k < 16, (subBytes p b).byte k = p.sboxFn (b.byte k)) ∧
    (∀ k < 16, (invSubBytes p b).byte k = p.isboxFn (b.byte k)) ∧
    (∀ r < 4, ∀ c < 4, (shiftRows b).byte (4 * c + r) = b.byte (4 * ((c + r) % 4) + r)) ∧
    (∀ r < 4, ∀ c < 4, (invShiftRows b).byte (4 * ((c + r) % 4) + r) = b.byte (4 * c + r)) ∧
    (∀ r < 15, ∀ k < 16, (addRoundKey rk b r).byte k = b.byte k ^^^ (rk.toList.flatMap Quad.bytes).getD (16 * r + k) 0#8)

/-- R141, R142, byte by byte: the two circulant matrices, row `r` of each being row 0 turned right by `r`. -/
def Obligations.ColumnMixFollowsTheMatrices : Prop :=
  ∀ (b : Block) (r c : Nat), r < 4 → c < 4 →
    let a : Nat → Byte := fun k => b.byte (4 * c + (r + k) % 4)
    (mixColumns b).byte (4 * c + r) = mul (a 0) 0x02#8 ^^^ mul (a 1) 0x03#8 ^^^ a 2 ^^^ a 3 ∧
    (invMixColumns b).byte (4 * c + r) =
      mul (a 0) 0x0e#8 ^^^ mul (a 1) 0x0b#8 ^^^ mul (a 2) 0x0d#8 ^^^ mul (a 3) 0x09#8

/-- R146, R147: the two ciphers as the sequences of round primitives, `Nr` from `KS_CUR`, and the words past the last
round key are never read. -/
def Obligations.CipherIsTheRoundSequence : Prop :=
  (∀ (s : State) (b : Block) (nr : Nat),
    (s.ksCur, nr) ∈ [(KeySize.k128, 10), (KeySize.k192, 12), (KeySize.k256, 14)] →
    let forward := fun x r => addRoundKey s.rk (mix s.params (shiftRows (subBytes s.params x))) r
    let backward := fun x r => invMix s.params (addRoundKey s.rk (invSubBytes s.params (invShiftRows x)) r)
    let rounds := (List.range (nr - 1)).map (· + 1)
    s.cipher b =
      addRoundKey s.rk (shiftRows (subBytes s.params (rounds.foldl forward (addRoundKey s.rk b 0)))) nr ∧
    s.invCipher b =
      addRoundKey s.rk (invSubBytes s.params (invShiftRows
        (rounds.reverse.foldl backward (addRoundKey s.rk b nr)))) 0) ∧
  (∀ (s : State) (rk : Vector Quad 60) (b : Block),
    (∀ (i : Nat) (h : i < 60), i < 4 * (s.ksCur.nr + 1) → rk[i] = s.rk[i]) →
    ({ s with rk := rk } : State).cipher b = s.cipher b ∧ ({ s with rk := rk } : State).invCipher b = s.invCipher b)

/-- R140: `double` as arithmetic, and `mul(b, c)` as the XOR-sum of `double` applied 0 to 4 times to `b`, gated by the
bits of `c`. -/
def Obligations.MulIsTheGatedSumOfDoubles : Prop :=
  (∀ b : Byte, (double b).toNat = ((b.toNat * 2) ^^^ (if 128 ≤ b.toNat then 0x1b else 0x00)) % 256) ∧
  (∀ b c : Byte, mul b c =
    (if c.getLsbD 0 then b else 0#8) ^^^ (if c.getLsbD 1 then double b else 0#8) ^^^
    (if c.getLsbD 2 then double (double b) else 0#8) ^^^ (if c.getLsbD 3 then double (double (double b)) else 0#8) ^^^
    (if c.getLsbD 4 then double (double (double (double b))) else 0#8))

/-- Every substitution table of an instance is a permutation and its inverse table inverts it, both ways, for every byte
(R132, R133, R135). -/
def Obligations.InverseTablesInvert : Prop :=
  (∀ (p : Params) (v : Byte), p.isboxFn (p.sboxFn v) = v ∧ p.sboxFn (p.isboxFn v) = v) ∧
  (∀ (t : SBox) (v : Byte), t.inv (t.table.look v) = v ∧ t.table.look (t.inv v) = v)

/-- R145: the mix step of each `MIX_MODE`, byte by byte for `ALT_SUB` (R144). -/
def Obligations.MixFollowsMixMode : Prop :=
  ∀ (p : Params) (b : Block),
    (p.mix = .mds → mix p b = mixColumns b ∧ invMix p b = invMixColumns b) ∧
    (∀ t, p.mix = .altSub t → ∀ k < 16,
      (mix p b).byte k = t.table.look (b.byte k) ∧ (invMix p b).byte k = t.inv (b.byte k))

/-- The source's known-answer vector KAT-1 (R177, R178): AES-128 in the default instance, both ways. -/
def Obligations.KnownAnswerVector : Prop :=
  let key : List Quad := [⟨0x2b#8, 0x7e#8, 0x15#8, 0x16#8⟩, ⟨0x28#8, 0xae#8, 0xd2#8, 0xa6#8⟩,
    ⟨0xab#8, 0xf7#8, 0x15#8, 0x88#8⟩, ⟨0x09#8, 0xcf#8, 0x4f#8, 0x3c#8⟩]
  let rk := roundKeyStore (keyExpansion Params.default .k128 key)
  let plain : Block := ⟨⟨0x6b#8, 0xc1#8, 0xbe#8, 0xe2#8⟩, ⟨0x2e#8, 0x40#8, 0x9f#8, 0x96#8⟩,
    ⟨0xe9#8, 0x3d#8, 0x7e#8, 0x11#8⟩, ⟨0x73#8, 0x93#8, 0x17#8, 0x2a#8⟩⟩
  let crypt : Block := ⟨⟨0x3a#8, 0xd7#8, 0x7b#8, 0xb4#8⟩, ⟨0x0d#8, 0x7a#8, 0x36#8, 0x60#8⟩,
    ⟨0xa8#8, 0x9e#8, 0xca#8, 0xf3#8⟩, ⟨0x24#8, 0x66#8, 0xef#8, 0x97#8⟩⟩
  cipherBlock Params.default rk 10 plain = crypt ∧ invCipherBlock Params.default rk 10 crypt = plain

/-! ## Data commands (42_mode_driver.md) -/

/-- The completion of `ECB_ENC` (R177, R173, R68): block `k` of the region becomes its cipher, every byte outside the
region is as before, and nothing else but `BUSY` and `DONE` changes. -/
def Obligations.EcbEncCompletes : Prop :=
  ∀ (s : State) (a n : Nat), a = s.lat.addr.toNat → n = s.lat.len.toNat / 16 →
    s.busy = true → s.readable a (16 * n) →
    ∃ t, exec .ecbEnc s = .next t ∧
      t = { s with buf := t.buf, busy := false, intstat := s.intstat ||| 0b001#3 } ∧
      (∀ k < n, ∃ b, s.blockAt? (a + 16 * k) = some b ∧ t.blockAt? (a + 16 * k) = some (s.cipher b)) ∧
      (∀ o, ¬(a ≤ o ∧ o < a + 16 * n) → t.bufByte? o = s.bufByte? o)

/-- The completion of `ECB_DEC` (R178, R173, R68). -/
def Obligations.EcbDecCompletes : Prop :=
  ∀ (s : State) (a n : Nat), a = s.lat.addr.toNat → n = s.lat.len.toNat / 16 →
    s.busy = true → s.readable a (16 * n) →
    ∃ t, exec .ecbDec s = .next t ∧
      t = { s with buf := t.buf, busy := false, intstat := s.intstat ||| 0b001#3 } ∧
      (∀ k < n, ∃ b, s.blockAt? (a + 16 * k) = some b ∧ t.blockAt? (a + 16 * k) = some (s.invCipher b)) ∧
      (∀ o, ¬(a ≤ o ∧ o < a + 16 * n) → t.bufByte? o = s.bufByte? o)

/-- The completion of `CBC_ENC` (R179, R173, R68): block `k` becomes the cipher of it XOR the ciphertext block before
it, `CV` for the first, and `CV` ends as the last ciphertext block, or as it was where there is none. -/
def Obligations.CbcEncCompletes : Prop :=
  ∀ (s : State) (a n : Nat), a = s.lat.addr.toNat → n = s.lat.len.toNat / 16 →
    s.busy = true → s.readable a (16 * n) →
    ∃ t, exec .cbcEnc s = .next t ∧
      t = { s with buf := t.buf, cv := t.cv, busy := false, intstat := s.intstat ||| 0b001#3 } ∧
      (∀ k < n, ∃ b prev, s.blockAt? (a + 16 * k) = some b ∧
        (if k = 0 then some prev = some s.cv else t.blockAt? (a + 16 * (k - 1)) = some prev) ∧
        t.blockAt? (a + 16 * k) = some (s.cipher (b.xor prev))) ∧
      (if n = 0 then t.cv = s.cv else t.blockAt? (a + 16 * (n - 1)) = some t.cv) ∧
      (∀ o, ¬(a ≤ o ∧ o < a + 16 * n) → t.bufByte? o = s.bufByte? o)

/-- The completion of `CBC_DEC` (R180, R173, R68): block `k` becomes its inverse cipher XOR the ciphertext block before
it as it was, `CV` for the first, and `CV` ends as the last ciphertext block as it was. -/
def Obligations.CbcDecCompletes : Prop :=
  ∀ (s : State) (a n : Nat), a = s.lat.addr.toNat → n = s.lat.len.toNat / 16 →
    s.busy = true → s.readable a (16 * n) →
    ∃ t, exec .cbcDec s = .next t ∧
      t = { s with buf := t.buf, cv := t.cv, busy := false, intstat := s.intstat ||| 0b001#3 } ∧
      (∀ k < n, ∃ c prev, s.blockAt? (a + 16 * k) = some c ∧
        (if k = 0 then some prev = some s.cv else s.blockAt? (a + 16 * (k - 1)) = some prev) ∧
        t.blockAt? (a + 16 * k) = some ((s.invCipher c).xor prev)) ∧
      (if n = 0 then t.cv = s.cv else s.blockAt? (a + 16 * (n - 1)) = some t.cv) ∧
      (∀ o, ¬(a ≤ o ∧ o < a + 16 * n) → t.bufByte? o = s.bufByte? o)

/-- The completion of `CTR_XCRYPT` (R181, R182, R173, R68): block `k` becomes it XOR the cipher of the counter plus `k`,
and `CV` ends as the counter plus the number of blocks, as 128-bit big-endian numbers. -/
def Obligations.CtrXcryptCompletes : Prop :=
  ∀ (s : State) (a n : Nat), a = s.lat.addr.toNat → n = s.lat.len.toNat / 16 →
    s.busy = true → s.readable a (16 * n) →
    ∃ t, exec .ctrXcrypt s = .next t ∧
      t = { s with buf := t.buf, cv := be16 ((intBe s.cv.bytes + n) % 2 ^ 128), busy := false,
                   intstat := s.intstat ||| 0b001#3 } ∧
      (∀ k < n, ∃ b, s.blockAt? (a + 16 * k) = some b ∧
        t.blockAt? (a + 16 * k) = some (b.xor (s.cipher (be16 ((intBe s.cv.bytes + k) % 2 ^ 128))))) ∧
      (∀ o, ¬(a ≤ o ∧ o < a + 16 * n) → t.bufByte? o = s.bufByte? o)

/-- R184: a data command with `LEN = 0` and a legal `ADDR` is accepted, and completes changing nothing but the lifecycle
flags. -/
def Obligations.ZeroLengthCommandChangesNothing : Prop :=
  ∀ (i : Instr) (s : State), i ∈ [Instr.ecbEnc, .ecbDec, .cbcEnc, .cbcDec, .ctrXcrypt] →
    (s.busy = false → s.keyValid = true → (i ∈ [Instr.cbcEnc, .cbcDec, .ctrXcrypt] → s.ivValid = true) →
      s.len = 0#32 → s.addr.toNat % 16 = 0 → s.addr.toNat ≤ s.params.bufBytes →
      exec i s = .next { s with err := false, errCode := none, busy := true,
                                lat := ⟨i.opcode, i.ksBits, s.addr, 0#32⟩ }) ∧
    (s.busy = true → s.lat.len = 0#32 →
      exec i s = .next { s with busy := false, intstat := s.intstat ||| 0b001#3 })

/-- R49: a data command whose region holds a byte without a value, and a host read of a `BUF` word that holds one outside
the BUSY window, stop at the first such byte. That the command stops at its completion is DEDUCED (log entry 6). -/
def Obligations.UnwrittenBytesFault : Prop :=
  (∀ (i : Instr) (s : State) (o : Nat), i ∈ [Instr.ecbEnc, .ecbDec, .cbcEnc, .cbcDec, .ctrXcrypt] →
    s.busy = true → s.lat.addr.toNat ≤ o → o < s.lat.addr.toNat + 16 * (s.lat.len.toNat / 16) →
    s.bufByte? o = none → s.readable s.lat.addr.toNat (o - s.lat.addr.toNat) →
    exec i s = .fault (.unwrittenRead o)) ∧
  (∀ (s : State) (off : BitVec 16) (rest : List Event) (n o : Nat), s.agenda = .hostRead off :: rest →
    s.rstN = true → s.busy = false → off.toNat = 0x1000 + 4 * n → 4 * n < s.params.bufBytes →
    4 * n ≤ o → o < 4 * n + 4 → s.bufByte? o = none → s.readable (4 * n) (o - 4 * n) →
    step s = .fault (.unwrittenRead o))

/-- R183: decrypting what was encrypted, with `CV` set back to its starting value for CBC and CTR, restores every byte of
the buffer. -/
def Obligations.ModesRoundTrip : Prop :=
  ∀ s : State, s.busy = true → s.readable s.lat.addr.toNat (16 * (s.lat.len.toNat / 16)) →
    (∃ t u, exec .ecbEnc s = .next t ∧ exec .ecbDec { t with busy := true } = .next u ∧
      ∀ o, u.bufByte? o = s.bufByte? o) ∧
    (∃ t u, exec .cbcEnc s = .next t ∧ exec .cbcDec { t with busy := true, cv := s.cv } = .next u ∧
      ∀ o, u.bufByte? o = s.bufByte? o) ∧
    (∃ t u, exec .ctrXcrypt s = .next t ∧ exec .ctrXcrypt { t with busy := true, cv := s.cv } = .next u ∧
      ∀ o, u.bufByte? o = s.bufByte? o)

/-- R174: one command over `n1 + n2` blocks gives the same buffer and the same final `CV` as two of the same mode over
the first `n1` and the next `n2`. -/
def Obligations.SplitCommandEqualsWhole : Prop :=
  ∀ (i : Instr) (s : State) (n1 n2 : Nat), i ∈ [Instr.ecbEnc, .ecbDec, .cbcEnc, .cbcDec, .ctrXcrypt] →
    s.busy = true → s.lat.addr.toNat + 16 * (n1 + n2) ≤ s.params.bufBytes →
    s.readable s.lat.addr.toNat (16 * (n1 + n2)) →
    ∃ t1 t2 t,
      exec i { s with lat := { s.lat with len := BitVec.ofNat 32 (16 * n1) } } = .next t1 ∧
      exec i { t1 with busy := true, lat := { s.lat with addr := s.lat.addr + BitVec.ofNat 32 (16 * n1),
                                                         len := BitVec.ofNat 32 (16 * n2) } } = .next t2 ∧
      exec i { s with lat := { s.lat with len := BitVec.ofNat 32 (16 * (n1 + n2)) } } = .next t ∧
      t.buf = t2.buf ∧ t.cv = t2.cv

/-- R185: of two buffers that differ in ciphertext block `j` only, `CBC_DEC` decrypts every block but `j` and `j + 1` to the
same, and, where the block does differ, those two to different ones (block `j + 1` where the region has one). -/
def Obligations.CbcErrorPropagation : Prop :=
  ∀ (s : State) (m : Memory) (a n j : Nat), a = s.lat.addr.toNat → n = s.lat.len.toNat / 16 →
    s.busy = true → s.readable a (16 * n) → j < n →
    ({ s with buf := m } : State).readable a (16 * n) →
    (∀ o, ¬(a + 16 * j ≤ o ∧ o < a + 16 * j + 16) → ({ s with buf := m } : State).bufByte? o = s.bufByte? o) →
    ∃ t u, exec .cbcDec s = .next t ∧ exec .cbcDec { s with buf := m } = .next u ∧
      (∀ k < n, k ≠ j → k ≠ j + 1 →
        (t.blockAt? (a + 16 * k)).isSome = true ∧ u.blockAt? (a + 16 * k) = t.blockAt? (a + 16 * k)) ∧
      (({ s with buf := m } : State).blockAt? (a + 16 * j) ≠ s.blockAt? (a + 16 * j) →
        u.blockAt? (a + 16 * j) ≠ t.blockAt? (a + 16 * j) ∧
        (j + 1 < n → u.blockAt? (a + 16 * (j + 1)) ≠ t.blockAt? (a + 16 * (j + 1))))

/-- R182: `Inc128(cv) = be_16((int_be(cv) + 1) mod 2^128)`. -/
def Obligations.CounterIncrement : Prop :=
  ∀ cv : Block, inc128 cv = be16 ((intBe cv.bytes + 1) % 2 ^ 128)

/-! ## Host port (10_state.md, 20_memory.md, 42_mode_driver.md R175) -/

/-- R64: a misaligned transaction gets an error response, a read of zero, and has no other effect; an aligned transaction
gets `ok`. -/
def Obligations.MisalignedTransactionsOnlyError : Prop :=
  ∀ (s : State) (off : BitVec 16) (v : Word) (rest : List Event), s.rstN = true →
    (off.toNat % 4 ≠ 0 → s.agenda = .hostRead off :: rest →
      step s = .next { s with agenda := rest, resp := some (.read false 0#32) }) ∧
    (off.toNat % 4 ≠ 0 → s.agenda = .hostWrite off v :: rest →
      step s = .next { s with agenda := rest, resp := some (.write false) }) ∧
    (off.toNat % 4 = 0 → s.agenda = .hostRead off :: rest →
      ∀ t, step s = .next t → ∃ w, t.resp = some (.read true w)) ∧
    (off.toNat % 4 = 0 → s.agenda = .hostWrite off v :: rest →
      ∃ t, step s = .next t ∧ t.resp = some (.write true))

/-- The writes of the BUSY window (R175): performed for `INTSTAT` (R25) and `INTEN` (R26), dropped for every other aligned
offset, which changes nothing but `INTSTAT.DROP`. -/
def Obligations.BusyWindowWrites : Prop :=
  ∀ (s : State) (off : BitVec 16) (v : Word) (rest : List Event),
    s.agenda = .hostWrite off v :: rest → s.rstN = true → s.busy = true →
    (off = 0x0008#16 → step s = .next { s with agenda := rest, resp := some (.write true),
                                               intstat := s.intstat &&& ~~~(v.extractLsb' 0 3) }) ∧
    (off = 0x000C#16 → step s = .next { s with agenda := rest, resp := some (.write true),
                                               inten := v.extractLsb' 0 3 }) ∧
    (off.toNat % 4 = 0 → off ≠ 0x0008#16 → off ≠ 0x000C#16 →
      step s = .next { s with agenda := rest, resp := some (.write true), intstat := s.intstat ||| 0b100#3 })

/-- The hidden windows of the BUSY window (R175, R32 to R34): `CV`, `RK` and `BUF` words read as zero. -/
def Obligations.BusyWindowReadsZero : Prop :=
  ∀ (s : State) (off : BitVec 16) (rest : List Event),
    s.agenda = .hostRead off :: rest → s.rstN = true → s.busy = true → off.toNat % 4 = 0 →
    (0x0050 ≤ off.toNat ∧ off.toNat < 0x0060) ∨ (0x0100 ≤ off.toNat ∧ off.toNat < 0x01F0) ∨
      (0x1000 ≤ off.toNat ∧ off.toNat < 0x1000 + s.params.bufBytes) →
    step s = .next { s with agenda := rest, resp := some (.read true 0#32) }

/-- No read inside the BUSY window tells anything about the buffer, the chaining value or the round keys (R73, R175): the
responses of two engines that differ in them only are equal. -/
def Obligations.BusyWindowReadsRevealNothing : Prop :=
  ∀ (s : State) (off : BitVec 16) (rest : List Event) (m : Memory) (c : Block) (r : Vector Quad 60),
    s.agenda = .hostRead off :: rest → s.busy = true →
    ∃ t u, step s = .next t ∧ step { s with buf := m, cv := c, rk := r } = .next u ∧ u.resp = t.resp

/-- The reads of the registers that read the same inside and outside the BUSY window (R25 to R31, R35): their value, zero
for `CMD` and for the reserved offsets. -/
def Obligations.RegisterReads : Prop :=
  ∀ (s : State) (off : BitVec 16) (w : Word) (rest : List Event),
    s.agenda = .hostRead off :: rest → s.rstN = true →
    (off = 0x0008#16 ∧ w = s.intstat.setWidth 32) ∨ (off = 0x000C#16 ∧ w = s.inten.setWidth 32) ∨
      (off = 0x0010#16 ∧ w = 0#32) ∨ (off = 0x0014#16 ∧ w = s.addr) ∨ (off = 0x0018#16 ∧ w = s.len) ∨
      (∃ n : Fin 8, off.toNat = 0x0020 + 4 * n ∧ w = s.key[n]) ∨
      (∃ n : Fin 4, off.toNat = 0x0040 + 4 * n ∧ w = s.ivin[n]) ∨
      (off.toNat % 4 = 0 ∧ w = 0#32 ∧ (off = 0x001C#16 ∨ (0x0060 ≤ off.toNat ∧ off.toNat ≤ 0x00FC) ∨
        (0x01F0 ≤ off.toNat ∧ off.toNat ≤ 0x0FFC) ∨ 0x1000 + s.params.bufBytes ≤ off.toNat)) →
    step s = .next { s with agenda := rest, resp := some (.read true w) }

/-- R23: the fields of `STATUS`, inside and outside the BUSY window; it is read-only, and zero after reset. -/
def Obligations.StatusRead : Prop :=
  (∀ p : Params, (State.initial p).statusWord = 0x00000000#32) ∧
  (∀ (s t : State) (v : Word) (rest : List Event), s.agenda = .hostWrite 0x0004#16 v :: rest → step s = .next t →
    t.statusWord = s.statusWord) ∧
  ∀ (s : State) (rest : List Event), s.agenda = .hostRead 0x0004#16 :: rest → s.rstN = true →
    ∃ w, step s = .next { s with agenda := rest, resp := some (.read true w) } ∧
      w.getLsbD 0 = s.busy ∧ w.getLsbD 1 = s.keyValid ∧ w.getLsbD 2 = s.ivValid ∧ w.getLsbD 3 = s.err ∧
      (s.errCode, w.extractLsb' 4 4) ∈
        [(none, 0#4), (some CmdError.illegalCmd, 1#4), (some CmdError.badKeySize, 2#4), (some CmdError.noKey, 3#4),
         (some CmdError.noIv, 4#4), (some CmdError.badAlign, 5#4), (some CmdError.badRange, 6#4)] ∧
      (s.ksCur, w.extractLsb' 8 2) ∈ [(KeySize.k128, 0#2), (KeySize.k192, 1#2), (KeySize.k256, 2#2)] ∧
      w = s.statusWord ∧ w.extractLsb' 10 22 = 0#22

/-- R22: the fields of `CONFIG`. -/
def Obligations.ConfigRead : Prop :=
  ∀ (s : State) (rest : List Event), s.agenda = .hostRead 0x0000#16 :: rest → s.rstN = true →
    ∃ w, step s = .next { s with agenda := rest, resp := some (.read true w) } ∧
      (w.getLsbD 0 = false ↔ s.params.sbox = .standard) ∧ (w.getLsbD 1 = false ↔ s.params.mix = .mds) ∧
      w.extractLsb' 2 14 = 0#14 ∧ (w.extractLsb' 16 16).toNat = s.params.bufBytes / 16

/-- R32, R33 outside the BUSY window: lane `j` of `CVn` is `CV[4n + j]`, lane `j` of `RKn` is `RK[4n + j]`. -/
def Obligations.ChainAndRoundKeyWindows : Prop :=
  ∀ (s : State) (off : BitVec 16) (rest : List Event),
    s.agenda = .hostRead off :: rest → s.rstN = true → s.busy = false →
    (∀ n : Fin 4, off.toNat = 0x0050 + 4 * n →
      ∃ w, step s = .next { s with agenda := rest, resp := some (.read true w) } ∧
        ∀ j < 4, w.extractLsb' (8 * j) 8 = s.cv.byte (4 * n + j)) ∧
    (∀ n : Fin 60, off.toNat = 0x0100 + 4 * n →
      ∃ w, step s = .next { s with agenda := rest, resp := some (.read true w) } ∧
        ∀ j < 4, w.extractLsb' (8 * j) 8 = s.rk[n].bytes.getD j 0#8)

/-- R65 outside the BUSY window: a read of word `n` of the window returns the four bytes in their lanes, and a write stores
the four lanes and changes no other byte and nothing else. -/
def Obligations.BufWindowLanes : Prop :=
  ∀ (s : State) (off : BitVec 16) (v : Word) (rest : List Event) (n : Nat),
    s.rstN = true → s.busy = false → off.toNat = 0x1000 + 4 * n → 4 * n < s.params.bufBytes →
    (s.agenda = .hostRead off :: rest → s.readable (4 * n) 4 →
      ∃ w, step s = .next { s with agenda := rest, resp := some (.read true w) } ∧
        ∀ j < 4, s.bufByte? (4 * n + j) = some (w.extractLsb' (8 * j) 8)) ∧
    (s.agenda = .hostWrite off v :: rest →
      ∃ t, step s = .next t ∧ t = { s with agenda := rest, resp := some (.write true), buf := t.buf } ∧
        (∀ j < 4, t.bufByte? (4 * n + j) = some (v.extractLsb' (8 * j) 8)) ∧
        (∀ o, ¬(4 * n ≤ o ∧ o < 4 * n + 4) → t.bufByte? o = s.bufByte? o))

/-- The writes outside the BUSY window (R25, R26, R28 to R31, R35): the parameter and staging registers take the value and
nothing else changes, so neither `RK` nor `CV` does (R237); `INTSTAT` clears the bits written as 1; read-only and
reserved offsets ignore the write. -/
def Obligations.RegisterWrites : Prop :=
  ∀ (s s' : State) (off : BitVec 16) (v : Word) (rest : List Event),
    s.agenda = .hostWrite off v :: rest → s.rstN = true → s.busy = false →
    s' = { s with agenda := rest, resp := some (.write true) } →
    (off = 0x0014#16 → step s = .next { s' with addr := v }) ∧
    (off = 0x0018#16 → step s = .next { s' with len := v }) ∧
    (∀ n : Fin 8, off.toNat = 0x0020 + 4 * n → step s = .next { s' with key := s.key.set n v }) ∧
    (∀ n : Fin 4, off.toNat = 0x0040 + 4 * n → step s = .next { s' with ivin := s.ivin.set n v }) ∧
    (off = 0x0008#16 → step s = .next { s' with intstat := s.intstat &&& ~~~(v.extractLsb' 0 3) }) ∧
    (off = 0x000C#16 → step s = .next { s' with inten := v.extractLsb' 0 3 }) ∧
    (off.toNat % 4 = 0 → off.toNat = 0x0000 ∨ off.toNat = 0x0004 ∨ off.toNat = 0x001C ∨
        (0x0050 ≤ off.toNat ∧ off.toNat < 0x1000) ∨ 0x1000 + s.params.bufBytes ≤ off.toNat →
      step s = .next s')

/-- No hardware event clears a bit of `INTSTAT` (R25): a set bit is cleared only by a host write of 1 to it or by reset. -/
def Obligations.IntstatClearedByHostOrResetOnly : Prop :=
  ∀ (s t : State) (b : Nat), step s = .next t → s.intstat.getLsbD b = true → t.intstat.getLsbD b = false →
    (∃ rest, s.agenda = .assertReset :: rest) ∨
    (∃ v rest, s.agenda = .hostWrite 0x0008#16 v :: rest ∧ v.getLsbD b = true)

/-- R39: the level of `irq`, a function of the state and of nothing pending, and its value after reset. -/
def Obligations.IrqLevel : Prop :=
  (∀ s : State, s.irq = true ↔ ∃ b, b < 3 ∧ s.intstat.getLsbD b = true ∧ s.inten.getLsbD b = true) ∧
  (∀ p : Params, (State.initial p).irq = false)

/-- No read has a side effect (R66): nothing but the agenda and the response changes. -/
def Obligations.ReadsHaveNoSideEffect : Prop :=
  ∀ (s t : State) (off : BitVec 16) (rest : List Event), s.agenda = .hostRead off :: rest → step s = .next t →
    t = { s with agenda := rest, resp := t.resp }

/-! ## Reset (70_reset_and_hazards.md) -/

/-- The assertion of reset, from every state, also inside the BUSY window (R230, R231, R48): every piece of the engine's
state takes its reset value, and no byte of `BUF` holds a value. Three clauses are the model's choice and no value of R48:
the last response is none (log entry 4), the events to come stay (log entry 2), and `rst_n` is then low in a field of the
state (log entry 5). The instance stays (R46, log entry 1). -/
def Obligations.ResetClearsEverything : Prop :=
  ∀ (s : State) (rest : List Event), s.agenda = .assertReset :: rest →
    step s = .next
      { params := s.params, addr := 0#32, len := 0#32, key := Vector.replicate 8 0#32, ivin := Vector.replicate 4 0#32,
        intstat := 0#3, inten := 0#3, err := false, errCode := none, busy := false, keyValid := false,
        ivValid := false, ksCur := .k128, lat := ⟨0#4, 0#2, 0#32, 0#32⟩,
        rk := Vector.replicate 60 ⟨0#8, 0#8, 0#8, 0#8⟩,
        cv := ⟨⟨0#8, 0#8, 0#8, 0#8⟩, ⟨0#8, 0#8, 0#8, 0#8⟩, ⟨0#8, 0#8, 0#8, 0#8⟩, ⟨0#8, 0#8, 0#8, 0#8⟩⟩,
        buf := [], rstN := false, agenda := rest, resp := none }

/-- While `rst_n = 0` the engine performs no transaction and takes no completion step (R230): no event but the release
changes anything, and no transaction gets a response. That an event which meets a low `rst_n` is consumed is the
model's choice (log entry 5), and so is that a step with no event left keeps the state (log entry 3). -/
def Obligations.NothingHappensInReset : Prop :=
  ∀ s : State, s.rstN = false →
    (s.agenda = [] → step s = .next s) ∧
    (∀ rest, s.agenda = .engine :: rest → step s = .next { s with agenda := rest }) ∧
    (∀ rest off, s.agenda = .hostRead off :: rest → step s = .next { s with agenda := rest, resp := none }) ∧
    (∀ rest off v, s.agenda = .hostWrite off v :: rest → step s = .next { s with agenda := rest, resp := none }) ∧
    (∀ rest, s.agenda = .releaseReset :: rest → step s = .next { s with agenda := rest, rstN := true })

/-- R48 as the host sees it: right after reset every register offset below `BUF`, but for `CONFIG`, reads zero, `irq` is
low, and every read of a `BUF` word is the fault of R49. -/
def Obligations.ResetRegistersReadZero : Prop :=
  State.reset.irq = false ∧
  (∀ off : BitVec 16, off.toNat % 4 = 0 → off ≠ 0x0000#16 → off.toNat < 0x1000 →
    step { State.reset with agenda := [.hostRead off] } = .next { State.reset with resp := some (.read true 0#32) }) ∧
  (∀ off : BitVec 16, off.toNat % 4 = 0 → 0x1000 ≤ off.toNat → off.toNat < 0x1000 + State.reset.params.bufBytes →
    step { State.reset with agenda := [.hostRead off] } = .fault (.unwrittenRead (off.toNat - 0x1000)))

/-! ## The arguments of the step relation (10_state.md R46) -/

/-- A step is the step relation of R46 on the engine's state, with the instance and the first event as its arguments: it
reads no later event and no earlier response, and changes neither the instance nor the later events. That the arguments
stand beside the engine's state is the model's choice (log entries 1, 2, 4), and so is the engine's turn of a step with no
event left (log entry 3). -/
def Obligations.StepTakesItsArguments : Prop :=
  ∀ (s : State) (e : Event) (rest : List Event),
    s.agenda = e :: rest ∨ (s.agenda = [] ∧ e = .engine ∧ rest = []) →
    step s =
      match Engine.next s.params e s.toEngine with
      | .next y => .next { toEngine := y.1, params := s.params, agenda := rest,
                           resp := if e.setsResponse then y.2 else s.resp }
      | .fault f => .fault f
      | .refused r => .refused r

/-- A run of the model over as many steps as its agenda holds is the run of R46, with the instance and the host's program
(the commands' durations in it) as arguments: it ends in the same state of the engine, or stops with the same fault. -/
def Obligations.RunTakesItsArguments : Prop :=
  ∀ (p : Params) (program : List Event) (x : Engine) (r : Option BusResponse),
    let s : State := { toEngine := x, params := p, agenda := program, resp := r }
    (∀ t : State, Host.Core.run Sys2Proof.core program.length s = .next t →
      t.params = p ∧ t.agenda = [] ∧ ∃ rs, rs.length = program.length ∧ Engine.run p program x = .next (t.toEngine, rs)) ∧
    (∀ y rs, Engine.run p program x = .next (y, rs) →
      ∃ t : State, Host.Core.run Sys2Proof.core program.length s = .next t ∧ t.toEngine = y) ∧
    (∀ f, Host.Core.run Sys2Proof.core program.length s = .fault f ↔ Engine.run p program x = .fault f)

/-! ## What changes what (prose of 10_state.md) -/

/-- Only a key load writes `RK`, `KEY_VALID` and `KS_CUR`, and only reset clears `KEY_VALID` (R40, R42): a step that changes
one of them is the completion of a latched key load, which leaves `KEY_VALID` set, or reset. -/
def Obligations.OnlyKeyLoadsWriteTheKey : Prop :=
  ∀ s t : State, step s = .next t → (t.rk, t.keyValid, t.ksCur) ≠ (s.rk, s.keyValid, s.ksCur) →
    (∃ rest, s.agenda = .assertReset :: rest) ∨
    (s.busy = true ∧ (s.lat.op = 0x1#4 ∨ s.lat.op = 0x2#4) ∧ t.keyValid = true ∧
      (s.agenda = [] ∨ ∃ rest, s.agenda = .engine :: rest))

/-- Only `SET_IV`, `INIT_KEY_IV`, `CBC_ENC`, `CBC_DEC` and `CTR_XCRYPT` write `CV`, only the first two set `IV_VALID`, and
only reset clears it (R41, R42). -/
def Obligations.OnlyChainingCommandsWriteTheChain : Prop :=
  ∀ s t : State, step s = .next t → (t.cv, t.ivValid) ≠ (s.cv, s.ivValid) →
    (∃ rest, s.agenda = .assertReset :: rest) ∨
    (s.busy = true ∧ (s.agenda = [] ∨ ∃ rest, s.agenda = .engine :: rest) ∧
      ((s.lat.op ∈ [0x2#4, 0x3#4] ∧ t.ivValid = true) ∨
       (s.lat.op ∈ [0x6#4, 0x7#4, 0x8#4] ∧ t.ivValid = s.ivValid)))

/-- A byte of `BUF` changes only by the completion of a data command over a region that holds it, by a host write of the
word that holds it outside the BUSY window, or by reset (R34, R68, R49). -/
def Obligations.OnlyTheRegionOfBufChanges : Prop :=
  ∀ (s t : State) (o : Nat), step s = .next t → t.bufByte? o ≠ s.bufByte? o →
    (∃ rest, s.agenda = .assertReset :: rest) ∨
    (s.busy = false ∧ ∃ off v rest, s.agenda = .hostWrite off v :: rest ∧ off.toNat % 4 = 0 ∧
      off.toNat ≤ 0x1000 + o ∧ 0x1000 + o < off.toNat + 4) ∨
    (s.busy = true ∧ (s.agenda = [] ∨ ∃ rest, s.agenda = .engine :: rest) ∧
      s.lat.op ∈ [0x4#4, 0x5#4, 0x6#4, 0x7#4, 0x8#4] ∧
      s.lat.addr.toNat ≤ o ∧ o < s.lat.addr.toNat + s.lat.len.toNat)

/-- `ADDR`, `LEN`, `KEYn`, `IVINn` and `INTEN` are written by host transactions only, never by a command (R21, R26, R76):
a step that changes one is a host write to its offset, outside the BUSY window but for `INTEN`, or reset. -/
def Obligations.OnlyTheHostWritesItsRegisters : Prop :=
  ∀ s t : State, step s = .next t → (∃ rest, s.agenda = .assertReset :: rest) ∨
    ((t.addr ≠ s.addr → s.busy = false ∧ ∃ v rest, s.agenda = .hostWrite 0x0014#16 v :: rest ∧ t.addr = v) ∧
     (t.len ≠ s.len → s.busy = false ∧ ∃ v rest, s.agenda = .hostWrite 0x0018#16 v :: rest ∧ t.len = v) ∧
     (∀ n : Fin 8, t.key[n] ≠ s.key[n] → s.busy = false ∧ ∃ off v rest, s.agenda = .hostWrite off v :: rest ∧
       off.toNat = 0x0020 + 4 * n ∧ t.key[n] = v) ∧
     (∀ n : Fin 4, t.ivin[n] ≠ s.ivin[n] → s.busy = false ∧ ∃ off v rest, s.agenda = .hostWrite off v :: rest ∧
       off.toNat = 0x0040 + 4 * n ∧ t.ivin[n] = v) ∧
     (t.inten ≠ s.inten → ∃ v rest, s.agenda = .hostWrite 0x000C#16 v :: rest ∧ t.inten = v.extractLsb' 0 3))

/-- The instance never changes, so `CONFIG` and the tables do not (R22, R45). -/
def Obligations.InstanceNeverChanges : Prop :=
  ∀ s t : State, step s = .next t → t.params = s.params

/-! ## The invariant (Safety.lean) -/

/-- From every state that meets the invariant, a step gives a state that meets it. -/
def Obligations.StepKeepsInvariant : Prop :=
  ∀ s t : State, Invariant s → step s = .next t → Invariant t

/-- The state right after reset, of every instance and facing any host program, meets the invariant. -/
def Obligations.ResetMeetsInvariant : Prop :=
  ∀ (p : Params) (program : List Event), Invariant (State.start p program)

/-- Under the invariant a step is never refused, and the only fault is a read of a byte of `BUF` that holds no value
(R49, R172). -/
def Obligations.OnlyUnwrittenReadsStop : Prop :=
  ∀ s : State, Invariant s → (∀ r, step s ≠ .refused r) ∧
    (∀ e, step s = .fault e → ∃ o, e = .unwrittenRead o ∧ s.bufByte? o = none)

/-- R171 with the fairness of log entry 3: after an accepted command whose region holds values, any number of `STATUS`
reads is followed by its completion, which clears `BUSY` and sets `DONE`. -/
def Obligations.CommandCompletesAfterPolling : Prop :=
  ∀ (s : State) (n : Nat), Invariant s → s.rstN = true → s.busy = true →
    (4 ≤ s.lat.op.toNat → s.readable s.lat.addr.toNat s.lat.len.toNat) →
    s.agenda = List.replicate n (.hostRead 0x0004#16) →
    ∃ t : State, Host.Core.run Sys2Proof.core (n + 1) s = .next t ∧ t.busy = false ∧ t.intstat.getLsbD 0 = true

/-- With no command in flight the engine has no step (R20): its turn changes nothing. That the agenda may hold such a turn
is the model's choice (log entry 2), and so is that a step with no event left exists and keeps the state (log entry 3). -/
def Obligations.IdleEngineDoesNothing : Prop :=
  ∀ s : State, s.busy = false →
    (s.agenda = [] → step s = .next s) ∧
    (∀ rest, s.agenda = .engine :: rest → step s = .next { s with agenda := rest })
end

