-- ==== Sys2Proof/Laws/Memory.lean ====
section
/-! SUPPORT. What the memory operations do: a read after a write, the canonical form, and `MemRead`, `MemWrite` and the
block operations through the read of one byte. -/

namespace Sys2Proof.Machine

/-! Bytes of a block -/

@[simp] theorem quad_ofBytes_bytes (q : Quad) : Quad.ofBytes q.bytes = q := rfl

@[simp] theorem quad_ofBytes_bytes_append (q : Quad) (l : List Byte) : Quad.ofBytes (q.bytes ++ l) = q := rfl

@[simp] theorem block_ofBytes_bytes (b : Block) : Block.ofBytes b.bytes = b := rfl

@[simp] theorem block_bytes_length (b : Block) : b.bytes.length = 16 := rfl

@[simp] theorem quad_bytes_length (q : Quad) : q.bytes.length = 4 := rfl

/-- Sixteen bytes are the bytes of the block they make. -/
theorem block_bytes_ofBytes (l : List Byte) (h : l.length = 16) : (Block.ofBytes l).bytes = l := by
  match l, h with
  | [_, _, _, _, _, _, _, _, _, _, _, _, _, _, _, _], _ => rfl

/-- A block is its sixteen bytes. -/
theorem block_ext_bytes {b c : Block} (h : b.bytes = c.bytes) : b = c := by
  have := congrArg Block.ofBytes h
  simpa using this

theorem block_bytes_getElem? (b : Block) (k : Nat) (h : k < 16) : b.bytes[k]? = some (b.byte k) := by
  rw [Block.byte, List.getD_eq_getElem?_getD, List.getElem?_eq_getElem (by simpa using h), Option.getD_some]

/-- A block is its bytes 0 to 15. -/
theorem block_ext_byte {b c : Block} (h : ∀ k < 16, b.byte k = c.byte k) : b = c := by
  apply block_ext_bytes
  apply List.ext_getElem?
  intro k
  by_cases hk : k < 16
  · rw [block_bytes_getElem? b k hk, block_bytes_getElem? c k hk, h k hk]
  · rw [List.getElem?_eq_none (by simpa using hk), List.getElem?_eq_none (by simpa using hk)]

/-! One byte -/

@[simp] theorem memory_read_nil (a : Nat) : Memory.read [] a = none := rfl

theorem memory_read_cons (k : Nat) (v : Byte) (m : Memory) (a : Nat) :
    Memory.read ((k, v) :: m) a = if k = a then some v else Memory.read m a := rfl

/-- A read after a write: the byte written at its offset, and every other byte as before. -/
theorem memory_read_write (m : Memory) (a : Nat) (v : Byte) (o : Nat) :
    Memory.read (Memory.write m a v) o = if o = a then some v else Memory.read m o := by
  induction m with
  | nil => simp [Memory.write, memory_read_cons, eq_comm]
  | cons c m ih =>
    obtain ⟨k, w⟩ := c
    unfold Memory.write
    split
    · simp [memory_read_cons, eq_comm]
    · split
      · subst_vars; simp only [memory_read_cons, eq_comm (a := o)]; split <;> simp_all
      · simp only [memory_read_cons, ih]
        split <;> split <;> simp_all

/-- The offsets listed after a write. -/
theorem memory_mem_write {m : Memory} {a : Nat} {v : Byte} {c : Host.Cell} (h : c ∈ Memory.write m a v) :
    c = (a, v) ∨ c ∈ m := by
  induction m with
  | nil => simpa [Memory.write] using h
  | cons d m ih =>
    obtain ⟨k, w⟩ := d
    unfold Memory.write at h
    split at h
    · simpa using h
    · split at h
      · simp only [List.mem_cons] at h ⊢; tauto
      · simp only [List.mem_cons] at h ⊢
        rcases h with h | h
        · exact .inr (.inl h)
        · rcases ih h with h | h
          · exact .inl h
          · exact .inr (.inr h)

/-- A write keeps the canonical form. -/
theorem memory_write_wf {m : Memory} (a : Nat) (v : Byte) (h : Memory.wf m) : Memory.wf (Memory.write m a v) := by
  induction m with
  | nil => simp [Memory.write, Memory.wf]
  | cons d m ih =>
    obtain ⟨k, w⟩ := d
    have hp := List.pairwise_cons.mp h
    unfold Memory.write
    split
    · rename_i hlt
      refine List.pairwise_cons.mpr ⟨?_, h⟩
      intro c hc
      rcases List.mem_cons.mp hc with rfl | hc
      · exact hlt
      · exact Nat.lt_trans hlt (hp.1 c hc)
    · split
      · subst_vars
        exact List.pairwise_cons.mpr ⟨hp.1, hp.2⟩
      · refine List.pairwise_cons.mpr ⟨?_, ih hp.2⟩
        intro c hc
        rcases memory_mem_write hc with rfl | hc
        · show k < a; omega
        · exact hp.1 c hc

/-- A byte that reads as something is listed. -/
theorem memory_read_mem {m : Memory} {a : Nat} {v : Byte} (h : Memory.read m a = some v) : (a, v) ∈ m := by
  induction m with
  | nil => simp at h
  | cons d m ih =>
    obtain ⟨k, w⟩ := d
    rw [memory_read_cons] at h
    split at h
    · subst_vars; simp_all
    · exact List.mem_cons_of_mem _ (ih h)

/-- In canonical form a listed byte reads as it is listed. -/
theorem memory_read_of_mem {m : Memory} (hw : Memory.wf m) {a : Nat} {v : Byte} (h : (a, v) ∈ m) :
    Memory.read m a = some v := by
  induction m with
  | nil => simp at h
  | cons d m ih =>
    obtain ⟨k, w⟩ := d
    have hp := List.pairwise_cons.mp hw
    rw [memory_read_cons]
    rcases List.mem_cons.mp h with h | h
    · simp_all
    · have := hp.1 _ h
      simp only at this
      rw [if_neg (by omega), ih hp.2 h]

/-- Two memories in canonical form that read alike are equal. -/
theorem memory_ext {m n : Memory} (hm : Memory.wf m) (hn : Memory.wf n)
    (h : ∀ a, Memory.read m a = Memory.read n a) : m = n := by
  induction m generalizing n with
  | nil =>
    cases n with
    | nil => rfl
    | cons d n => obtain ⟨k, w⟩ := d; have := h k; simp [memory_read_cons] at this
  | cons c m ih =>
    cases n with
    | nil => obtain ⟨k, w⟩ := c; have := h k; simp [memory_read_cons] at this
    | cons d n =>
      obtain ⟨k, v⟩ := c
      obtain ⟨l, w⟩ := d
      have hpm := List.pairwise_cons.mp hm
      have hpn := List.pairwise_cons.mp hn
      have hk : (k, v) ∈ (l, w) :: n := memory_read_mem (by rw [← h]; simp [memory_read_cons])
      have hl : (l, w) ∈ (k, v) :: m := memory_read_mem (by rw [h]; simp [memory_read_cons])
      have hkl : k = l ∧ v = w := by
        rcases List.mem_cons.mp hk with e | hk
        · simpa using e
        · rcases List.mem_cons.mp hl with e | hl
          · exact ⟨(Prod.mk.inj e).1.symm, (Prod.mk.inj e).2.symm⟩
          · have := hpn.1 _ hk; have := hpm.1 _ hl; simp only at *; omega
      obtain ⟨rfl, rfl⟩ := hkl
      have fresh : ∀ {m' : Memory}, (∀ c ∈ m', k < c.1) → Memory.read m' k = none := by
        intro m' hm'
        cases hr : Memory.read m' k with
        | none => rfl
        | some x => exact absurd (hm' _ (memory_read_mem hr)) (Nat.lt_irrefl k)
      congr 1
      refine ih hpm.2 hpn.2 fun a => ?_
      have ha := h a
      simp only [memory_read_cons] at ha
      by_cases hka : k = a
      · subst hka
        rw [fresh hpm.1, fresh hpn.1]
      · simpa [hka] using ha

theorem byteAt?_lt {limit : Nat} {m : Memory} {a : Nat} {v : Byte} (h : byteAt? limit m a = some v) : a < limit := by
  unfold byteAt? at h
  split at h
  · assumption
  · cases h

/-! `MemRead` -/

/-- What `MemRead` answers: the bytes, in order, or the first byte of the region that holds no value (R49). -/
theorem memRead_cases (limit : Nat) (buf : Memory) (a n : Nat) :
    (∃ l, memRead limit buf a n = .ok l ∧ l.length = n ∧ ∀ k < n, byteAt? limit buf (a + k) = l[k]?) ∨
    (∃ o, memRead limit buf a n = .error (.unwrittenRead o) ∧ a ≤ o ∧ o < a + n ∧ byteAt? limit buf o = none ∧
      ∀ p, a ≤ p → p < o → (byteAt? limit buf p).isSome = true) := by
  induction n generalizing a with
  | zero => exact .inl ⟨[], rfl, rfl, by simp⟩
  | succ n ih =>
    unfold memRead
    cases hv : byteAt? limit buf a with
    | none => exact .inr ⟨a, rfl, by omega, by omega, hv, by intros; omega⟩
    | some v =>
      rcases ih (a + 1) with ⟨l, hl, hlen, hb⟩ | ⟨o, ho, h1, h2, h3, h4⟩
      · refine .inl ⟨v :: l, by simp [hl], by simp [hlen], ?_⟩
        intro k hk
        cases k with
        | zero => simpa using hv
        | succ k => simpa [Nat.add_assoc, Nat.add_comm 1 k] using hb k (by omega)
      · refine .inr ⟨o, by simp [ho], by omega, by omega, h3, ?_⟩
        intro p hp hpo
        by_cases hpa : p = a
        · subst hpa; simp [hv]
        · exact h4 p (by omega) hpo

/-! `MemWrite` -/

/-- The bytes after `MemWrite`: the written ones in the region, every other as before. -/
theorem memory_read_memWrite (buf : Memory) (a : Nat) (l : List Byte) (o : Nat) :
    Memory.read (memWrite buf a l) o = if a ≤ o ∧ o < a + l.length then l[o - a]? else Memory.read buf o := by
  induction l generalizing buf a with
  | nil => simp [memWrite]
  | cons v l ih =>
    simp only [memWrite, ih, memory_read_write, List.length_cons]
    by_cases h1 : o = a
    · subst h1; simp
    · by_cases h2 : a + 1 ≤ o ∧ o < a + 1 + l.length
      · rw [if_pos h2, if_pos (by omega)]
        obtain ⟨d, hd⟩ : ∃ d, o - a = d + 1 := ⟨o - a - 1, by omega⟩
        rw [hd, List.getElem?_cons_succ]
        congr 1; omega
      · rw [if_neg h2, if_neg h1, if_neg (by omega)]

/-- `MemWrite` keeps the canonical form. -/
theorem memWrite_wf {buf : Memory} (a : Nat) (l : List Byte) (h : Memory.wf buf) : Memory.wf (memWrite buf a l) := by
  induction l generalizing buf a with
  | nil => exact h
  | cons v l ih => exact ih (a + 1) (memory_write_wf a v h)

/-- `MemWrite` lists only the region's offsets anew. -/
theorem memWrite_inside {buf : Memory} {a limit : Nat} {l : List Byte} (hl : a + l.length ≤ limit)
    (h : ∀ c ∈ buf, c.1 < limit) : ∀ c ∈ memWrite buf a l, c.1 < limit := by
  induction l generalizing buf a with
  | nil => exact h
  | cons v l ih =>
    simp only [List.length_cons] at hl
    refine ih (by omega) ?_
    intro c hc
    rcases memory_mem_write hc with rfl | hc
    · show a < limit; omega
    · exact h c hc

theorem byteAt?_memWrite (limit : Nat) (buf : Memory) (a : Nat) (l : List Byte) (o : Nat) :
    byteAt? limit (memWrite buf a l) o =
      if o < limit ∧ a ≤ o ∧ o < a + l.length then l[o - a]? else byteAt? limit buf o := by
  unfold byteAt?
  rw [memory_read_memWrite]
  by_cases h : o < limit <;> simp [h]

/-! Blocks -/

/-- A block reads as `b` exactly when its sixteen bytes are those of `b`. -/
theorem readBlock_ok_iff (limit : Nat) (buf : Memory) (a : Nat) (b : Block) :
    readBlock limit buf a = .ok b ↔ ∀ k < 16, byteAt? limit buf (a + k) = some (b.byte k) := by
  unfold readBlock
  rcases memRead_cases limit buf a 16 with ⟨l, hl, hlen, hb⟩ | ⟨o, ho, h1, h2, h3, -⟩
  · rw [hl]
    have key : ∀ k < 16, l[k]? = some ((Block.ofBytes l).byte k) := by
      intro k hk
      rw [← block_bytes_getElem? _ k hk, block_bytes_ofBytes l hlen]
    constructor
    · intro h k hk
      have h : Block.ofBytes l = b := by simpa using h
      rw [hb k hk, key k hk, h]
    · intro h
      have : Block.ofBytes l = b := block_ext_byte fun k hk => by
        have := h k hk
        rw [hb k hk, key k hk] at this
        exact Option.some.inj this
      simp [this]
  · rw [ho]
    constructor
    · intro h; cases h
    · intro h
      have := h (o - a) (by omega)
      rw [show a + (o - a) = o by omega, h3] at this
      cases this

/-- Where its sixteen bytes hold values, a block reads. -/
theorem readBlock_of_readable {limit : Nat} {buf : Memory} {a : Nat}
    (h : ∀ o, a ≤ o → o < a + 16 → (byteAt? limit buf o).isSome = true) : ∃ b, readBlock limit buf a = .ok b := by
  unfold readBlock
  rcases memRead_cases limit buf a 16 with ⟨l, hl, -, -⟩ | ⟨o, -, h1, h2, h3, -⟩
  · exact ⟨_, by rw [hl]⟩
  · have := h o h1 h2; simp [h3] at this

/-- The bytes after a block is written. -/
theorem byteAt?_writeBlock (limit : Nat) (buf : Memory) (a : Nat) (b : Block) (o : Nat) :
    byteAt? limit (writeBlock buf a b) o =
      if o < limit ∧ a ≤ o ∧ o < a + 16 then some (b.byte (o - a)) else byteAt? limit buf o := by
  unfold writeBlock
  rw [byteAt?_memWrite, block_bytes_length]
  split
  · rw [block_bytes_getElem? _ _ (by omega)]
  · rfl

theorem writeBlock_wf {buf : Memory} (a : Nat) (b : Block) (h : Memory.wf buf) : Memory.wf (writeBlock buf a b) :=
  memWrite_wf a b.bytes h

theorem writeBlock_inside {buf : Memory} {a limit : Nat} {b : Block} (hl : a + 16 ≤ limit)
    (h : ∀ c ∈ buf, c.1 < limit) : ∀ c ∈ writeBlock buf a b, c.1 < limit :=
  memWrite_inside (by simpa using hl) h

/-- A block that reads lies inside the buffer. -/
theorem readBlock_ok_le {limit : Nat} {buf : Memory} {a : Nat} {b : Block} (h : readBlock limit buf a = .ok b) :
    a + 16 ≤ limit := by
  have := byteAt?_lt ((readBlock_ok_iff limit buf a b).mp h 15 (by omega))
  omega

end Sys2Proof.Machine
end

