-- ==== Sys2Proof/Laws/State.lean ====
section
/-! SUPPORT. One lemma per field per named update of State, each true by rfl, so that no proof unfolds an update. -/

namespace Sys2Proof.Machine

/-! `State.loadKey` -/

@[simp] theorem State.loadKey_params (s : State) (k : KeySize) : (s.loadKey k).params = s.params := rfl
@[simp] theorem State.loadKey_addr (s : State) (k : KeySize) : (s.loadKey k).addr = s.addr := rfl
@[simp] theorem State.loadKey_len (s : State) (k : KeySize) : (s.loadKey k).len = s.len := rfl
@[simp] theorem State.loadKey_key (s : State) (k : KeySize) : (s.loadKey k).key = s.key := rfl
@[simp] theorem State.loadKey_ivin (s : State) (k : KeySize) : (s.loadKey k).ivin = s.ivin := rfl
@[simp] theorem State.loadKey_intstat (s : State) (k : KeySize) : (s.loadKey k).intstat = s.intstat := rfl
@[simp] theorem State.loadKey_inten (s : State) (k : KeySize) : (s.loadKey k).inten = s.inten := rfl
@[simp] theorem State.loadKey_err (s : State) (k : KeySize) : (s.loadKey k).err = s.err := rfl
@[simp] theorem State.loadKey_errCode (s : State) (k : KeySize) : (s.loadKey k).errCode = s.errCode := rfl
@[simp] theorem State.loadKey_busy (s : State) (k : KeySize) : (s.loadKey k).busy = s.busy := rfl
@[simp] theorem State.loadKey_keyValid (s : State) (k : KeySize) : (s.loadKey k).keyValid = true := rfl
@[simp] theorem State.loadKey_ivValid (s : State) (k : KeySize) : (s.loadKey k).ivValid = s.ivValid := rfl
@[simp] theorem State.loadKey_ksCur (s : State) (k : KeySize) : (s.loadKey k).ksCur = k := rfl
@[simp] theorem State.loadKey_lat (s : State) (k : KeySize) : (s.loadKey k).lat = s.lat := rfl
@[simp] theorem State.loadKey_rk (s : State) (k : KeySize) : (s.loadKey k).rk = roundKeyStore (keyExpansion s.params k (s.keyWords k)) := rfl
@[simp] theorem State.loadKey_cv (s : State) (k : KeySize) : (s.loadKey k).cv = s.cv := rfl
@[simp] theorem State.loadKey_buf (s : State) (k : KeySize) : (s.loadKey k).buf = s.buf := rfl
@[simp] theorem State.loadKey_rstN (s : State) (k : KeySize) : (s.loadKey k).rstN = s.rstN := rfl
@[simp] theorem State.loadKey_agenda (s : State) (k : KeySize) : (s.loadKey k).agenda = s.agenda := rfl
@[simp] theorem State.loadKey_resp (s : State) (k : KeySize) : (s.loadKey k).resp = s.resp := rfl

/-! `State.loadIv` -/

@[simp] theorem State.loadIv_params (s : State) : (s.loadIv).params = s.params := rfl
@[simp] theorem State.loadIv_addr (s : State) : (s.loadIv).addr = s.addr := rfl
@[simp] theorem State.loadIv_len (s : State) : (s.loadIv).len = s.len := rfl
@[simp] theorem State.loadIv_key (s : State) : (s.loadIv).key = s.key := rfl
@[simp] theorem State.loadIv_ivin (s : State) : (s.loadIv).ivin = s.ivin := rfl
@[simp] theorem State.loadIv_intstat (s : State) : (s.loadIv).intstat = s.intstat := rfl
@[simp] theorem State.loadIv_inten (s : State) : (s.loadIv).inten = s.inten := rfl
@[simp] theorem State.loadIv_err (s : State) : (s.loadIv).err = s.err := rfl
@[simp] theorem State.loadIv_errCode (s : State) : (s.loadIv).errCode = s.errCode := rfl
@[simp] theorem State.loadIv_busy (s : State) : (s.loadIv).busy = s.busy := rfl
@[simp] theorem State.loadIv_keyValid (s : State) : (s.loadIv).keyValid = s.keyValid := rfl
@[simp] theorem State.loadIv_ivValid (s : State) : (s.loadIv).ivValid = true := rfl
@[simp] theorem State.loadIv_ksCur (s : State) : (s.loadIv).ksCur = s.ksCur := rfl
@[simp] theorem State.loadIv_lat (s : State) : (s.loadIv).lat = s.lat := rfl
@[simp] theorem State.loadIv_rk (s : State) : (s.loadIv).rk = s.rk := rfl
@[simp] theorem State.loadIv_cv (s : State) : (s.loadIv).cv = s.ivBytes := rfl
@[simp] theorem State.loadIv_buf (s : State) : (s.loadIv).buf = s.buf := rfl
@[simp] theorem State.loadIv_rstN (s : State) : (s.loadIv).rstN = s.rstN := rfl
@[simp] theorem State.loadIv_agenda (s : State) : (s.loadIv).agenda = s.agenda := rfl
@[simp] theorem State.loadIv_resp (s : State) : (s.loadIv).resp = s.resp := rfl

/-! `State.setRegion` -/

@[simp] theorem State.setRegion_params (s : State) (m : Memory) (c : Block) : (s.setRegion m c).params = s.params := rfl
@[simp] theorem State.setRegion_addr (s : State) (m : Memory) (c : Block) : (s.setRegion m c).addr = s.addr := rfl
@[simp] theorem State.setRegion_len (s : State) (m : Memory) (c : Block) : (s.setRegion m c).len = s.len := rfl
@[simp] theorem State.setRegion_key (s : State) (m : Memory) (c : Block) : (s.setRegion m c).key = s.key := rfl
@[simp] theorem State.setRegion_ivin (s : State) (m : Memory) (c : Block) : (s.setRegion m c).ivin = s.ivin := rfl
@[simp] theorem State.setRegion_intstat (s : State) (m : Memory) (c : Block) : (s.setRegion m c).intstat = s.intstat := rfl
@[simp] theorem State.setRegion_inten (s : State) (m : Memory) (c : Block) : (s.setRegion m c).inten = s.inten := rfl
@[simp] theorem State.setRegion_err (s : State) (m : Memory) (c : Block) : (s.setRegion m c).err = s.err := rfl
@[simp] theorem State.setRegion_errCode (s : State) (m : Memory) (c : Block) : (s.setRegion m c).errCode = s.errCode := rfl
@[simp] theorem State.setRegion_busy (s : State) (m : Memory) (c : Block) : (s.setRegion m c).busy = s.busy := rfl
@[simp] theorem State.setRegion_keyValid (s : State) (m : Memory) (c : Block) : (s.setRegion m c).keyValid = s.keyValid := rfl
@[simp] theorem State.setRegion_ivValid (s : State) (m : Memory) (c : Block) : (s.setRegion m c).ivValid = s.ivValid := rfl
@[simp] theorem State.setRegion_ksCur (s : State) (m : Memory) (c : Block) : (s.setRegion m c).ksCur = s.ksCur := rfl
@[simp] theorem State.setRegion_lat (s : State) (m : Memory) (c : Block) : (s.setRegion m c).lat = s.lat := rfl
@[simp] theorem State.setRegion_rk (s : State) (m : Memory) (c : Block) : (s.setRegion m c).rk = s.rk := rfl
@[simp] theorem State.setRegion_cv (s : State) (m : Memory) (c : Block) : (s.setRegion m c).cv = c := rfl
@[simp] theorem State.setRegion_buf (s : State) (m : Memory) (c : Block) : (s.setRegion m c).buf = m := rfl
@[simp] theorem State.setRegion_rstN (s : State) (m : Memory) (c : Block) : (s.setRegion m c).rstN = s.rstN := rfl
@[simp] theorem State.setRegion_agenda (s : State) (m : Memory) (c : Block) : (s.setRegion m c).agenda = s.agenda := rfl
@[simp] theorem State.setRegion_resp (s : State) (m : Memory) (c : Block) : (s.setRegion m c).resp = s.resp := rfl

/-! `State.reject` -/

@[simp] theorem State.reject_params (s : State) (e : CmdError) : (s.reject e).params = s.params := rfl
@[simp] theorem State.reject_addr (s : State) (e : CmdError) : (s.reject e).addr = s.addr := rfl
@[simp] theorem State.reject_len (s : State) (e : CmdError) : (s.reject e).len = s.len := rfl
@[simp] theorem State.reject_key (s : State) (e : CmdError) : (s.reject e).key = s.key := rfl
@[simp] theorem State.reject_ivin (s : State) (e : CmdError) : (s.reject e).ivin = s.ivin := rfl
@[simp] theorem State.reject_intstat (s : State) (e : CmdError) : (s.reject e).intstat = s.intstat ||| intDone ||| intErr := rfl
@[simp] theorem State.reject_inten (s : State) (e : CmdError) : (s.reject e).inten = s.inten := rfl
@[simp] theorem State.reject_err (s : State) (e : CmdError) : (s.reject e).err = true := rfl
@[simp] theorem State.reject_errCode (s : State) (e : CmdError) : (s.reject e).errCode = some e := rfl
@[simp] theorem State.reject_busy (s : State) (e : CmdError) : (s.reject e).busy = s.busy := rfl
@[simp] theorem State.reject_keyValid (s : State) (e : CmdError) : (s.reject e).keyValid = s.keyValid := rfl
@[simp] theorem State.reject_ivValid (s : State) (e : CmdError) : (s.reject e).ivValid = s.ivValid := rfl
@[simp] theorem State.reject_ksCur (s : State) (e : CmdError) : (s.reject e).ksCur = s.ksCur := rfl
@[simp] theorem State.reject_lat (s : State) (e : CmdError) : (s.reject e).lat = s.lat := rfl
@[simp] theorem State.reject_rk (s : State) (e : CmdError) : (s.reject e).rk = s.rk := rfl
@[simp] theorem State.reject_cv (s : State) (e : CmdError) : (s.reject e).cv = s.cv := rfl
@[simp] theorem State.reject_buf (s : State) (e : CmdError) : (s.reject e).buf = s.buf := rfl
@[simp] theorem State.reject_rstN (s : State) (e : CmdError) : (s.reject e).rstN = s.rstN := rfl
@[simp] theorem State.reject_agenda (s : State) (e : CmdError) : (s.reject e).agenda = s.agenda := rfl
@[simp] theorem State.reject_resp (s : State) (e : CmdError) : (s.reject e).resp = s.resp := rfl

/-! `State.acknowledge` -/

@[simp] theorem State.acknowledge_params (s : State) (v : Word) : (s.acknowledge v).params = s.params := rfl
@[simp] theorem State.acknowledge_addr (s : State) (v : Word) : (s.acknowledge v).addr = s.addr := rfl
@[simp] theorem State.acknowledge_len (s : State) (v : Word) : (s.acknowledge v).len = s.len := rfl
@[simp] theorem State.acknowledge_key (s : State) (v : Word) : (s.acknowledge v).key = s.key := rfl
@[simp] theorem State.acknowledge_ivin (s : State) (v : Word) : (s.acknowledge v).ivin = s.ivin := rfl
@[simp] theorem State.acknowledge_intstat (s : State) (v : Word) : (s.acknowledge v).intstat = s.intstat &&& ~~~(lowThree v) := rfl
@[simp] theorem State.acknowledge_inten (s : State) (v : Word) : (s.acknowledge v).inten = s.inten := rfl
@[simp] theorem State.acknowledge_err (s : State) (v : Word) : (s.acknowledge v).err = s.err := rfl
@[simp] theorem State.acknowledge_errCode (s : State) (v : Word) : (s.acknowledge v).errCode = s.errCode := rfl
@[simp] theorem State.acknowledge_busy (s : State) (v : Word) : (s.acknowledge v).busy = s.busy := rfl
@[simp] theorem State.acknowledge_keyValid (s : State) (v : Word) : (s.acknowledge v).keyValid = s.keyValid := rfl
@[simp] theorem State.acknowledge_ivValid (s : State) (v : Word) : (s.acknowledge v).ivValid = s.ivValid := rfl
@[simp] theorem State.acknowledge_ksCur (s : State) (v : Word) : (s.acknowledge v).ksCur = s.ksCur := rfl
@[simp] theorem State.acknowledge_lat (s : State) (v : Word) : (s.acknowledge v).lat = s.lat := rfl
@[simp] theorem State.acknowledge_rk (s : State) (v : Word) : (s.acknowledge v).rk = s.rk := rfl
@[simp] theorem State.acknowledge_cv (s : State) (v : Word) : (s.acknowledge v).cv = s.cv := rfl
@[simp] theorem State.acknowledge_buf (s : State) (v : Word) : (s.acknowledge v).buf = s.buf := rfl
@[simp] theorem State.acknowledge_rstN (s : State) (v : Word) : (s.acknowledge v).rstN = s.rstN := rfl
@[simp] theorem State.acknowledge_agenda (s : State) (v : Word) : (s.acknowledge v).agenda = s.agenda := rfl
@[simp] theorem State.acknowledge_resp (s : State) (v : Word) : (s.acknowledge v).resp = s.resp := rfl

/-! `State.accept` -/

@[simp] theorem State.accept_params (s : State) (i : Instr) : (s.accept i).params = s.params := rfl
@[simp] theorem State.accept_addr (s : State) (i : Instr) : (s.accept i).addr = s.addr := rfl
@[simp] theorem State.accept_len (s : State) (i : Instr) : (s.accept i).len = s.len := rfl
@[simp] theorem State.accept_key (s : State) (i : Instr) : (s.accept i).key = s.key := rfl
@[simp] theorem State.accept_ivin (s : State) (i : Instr) : (s.accept i).ivin = s.ivin := rfl
@[simp] theorem State.accept_intstat (s : State) (i : Instr) : (s.accept i).intstat = s.intstat := rfl
@[simp] theorem State.accept_inten (s : State) (i : Instr) : (s.accept i).inten = s.inten := rfl
@[simp] theorem State.accept_err (s : State) (i : Instr) : (s.accept i).err = false := rfl
@[simp] theorem State.accept_errCode (s : State) (i : Instr) : (s.accept i).errCode = none := rfl
@[simp] theorem State.accept_busy (s : State) (i : Instr) : (s.accept i).busy = true := rfl
@[simp] theorem State.accept_keyValid (s : State) (i : Instr) : (s.accept i).keyValid = s.keyValid := rfl
@[simp] theorem State.accept_ivValid (s : State) (i : Instr) : (s.accept i).ivValid = s.ivValid := rfl
@[simp] theorem State.accept_ksCur (s : State) (i : Instr) : (s.accept i).ksCur = s.ksCur := rfl
@[simp] theorem State.accept_lat (s : State) (i : Instr) : (s.accept i).lat = ⟨i.opcode, i.ksBits, s.addr, s.len⟩ := rfl
@[simp] theorem State.accept_rk (s : State) (i : Instr) : (s.accept i).rk = s.rk := rfl
@[simp] theorem State.accept_cv (s : State) (i : Instr) : (s.accept i).cv = s.cv := rfl
@[simp] theorem State.accept_buf (s : State) (i : Instr) : (s.accept i).buf = s.buf := rfl
@[simp] theorem State.accept_rstN (s : State) (i : Instr) : (s.accept i).rstN = s.rstN := rfl
@[simp] theorem State.accept_agenda (s : State) (i : Instr) : (s.accept i).agenda = s.agenda := rfl
@[simp] theorem State.accept_resp (s : State) (i : Instr) : (s.accept i).resp = s.resp := rfl

/-! `State.finish` -/

@[simp] theorem State.finish_params (s : State) : (s.finish).params = s.params := rfl
@[simp] theorem State.finish_addr (s : State) : (s.finish).addr = s.addr := rfl
@[simp] theorem State.finish_len (s : State) : (s.finish).len = s.len := rfl
@[simp] theorem State.finish_key (s : State) : (s.finish).key = s.key := rfl
@[simp] theorem State.finish_ivin (s : State) : (s.finish).ivin = s.ivin := rfl
@[simp] theorem State.finish_intstat (s : State) : (s.finish).intstat = s.intstat ||| intDone := rfl
@[simp] theorem State.finish_inten (s : State) : (s.finish).inten = s.inten := rfl
@[simp] theorem State.finish_err (s : State) : (s.finish).err = s.err := rfl
@[simp] theorem State.finish_errCode (s : State) : (s.finish).errCode = s.errCode := rfl
@[simp] theorem State.finish_busy (s : State) : (s.finish).busy = false := rfl
@[simp] theorem State.finish_keyValid (s : State) : (s.finish).keyValid = s.keyValid := rfl
@[simp] theorem State.finish_ivValid (s : State) : (s.finish).ivValid = s.ivValid := rfl
@[simp] theorem State.finish_ksCur (s : State) : (s.finish).ksCur = s.ksCur := rfl
@[simp] theorem State.finish_lat (s : State) : (s.finish).lat = s.lat := rfl
@[simp] theorem State.finish_rk (s : State) : (s.finish).rk = s.rk := rfl
@[simp] theorem State.finish_cv (s : State) : (s.finish).cv = s.cv := rfl
@[simp] theorem State.finish_buf (s : State) : (s.finish).buf = s.buf := rfl
@[simp] theorem State.finish_rstN (s : State) : (s.finish).rstN = s.rstN := rfl
@[simp] theorem State.finish_agenda (s : State) : (s.finish).agenda = s.agenda := rfl
@[simp] theorem State.finish_resp (s : State) : (s.finish).resp = s.resp := rfl

/-! `State.setAddr` -/

@[simp] theorem State.setAddr_params (s : State) (v : Word) : (s.setAddr v).params = s.params := rfl
@[simp] theorem State.setAddr_addr (s : State) (v : Word) : (s.setAddr v).addr = v := rfl
@[simp] theorem State.setAddr_len (s : State) (v : Word) : (s.setAddr v).len = s.len := rfl
@[simp] theorem State.setAddr_key (s : State) (v : Word) : (s.setAddr v).key = s.key := rfl
@[simp] theorem State.setAddr_ivin (s : State) (v : Word) : (s.setAddr v).ivin = s.ivin := rfl
@[simp] theorem State.setAddr_intstat (s : State) (v : Word) : (s.setAddr v).intstat = s.intstat := rfl
@[simp] theorem State.setAddr_inten (s : State) (v : Word) : (s.setAddr v).inten = s.inten := rfl
@[simp] theorem State.setAddr_err (s : State) (v : Word) : (s.setAddr v).err = s.err := rfl
@[simp] theorem State.setAddr_errCode (s : State) (v : Word) : (s.setAddr v).errCode = s.errCode := rfl
@[simp] theorem State.setAddr_busy (s : State) (v : Word) : (s.setAddr v).busy = s.busy := rfl
@[simp] theorem State.setAddr_keyValid (s : State) (v : Word) : (s.setAddr v).keyValid = s.keyValid := rfl
@[simp] theorem State.setAddr_ivValid (s : State) (v : Word) : (s.setAddr v).ivValid = s.ivValid := rfl
@[simp] theorem State.setAddr_ksCur (s : State) (v : Word) : (s.setAddr v).ksCur = s.ksCur := rfl
@[simp] theorem State.setAddr_lat (s : State) (v : Word) : (s.setAddr v).lat = s.lat := rfl
@[simp] theorem State.setAddr_rk (s : State) (v : Word) : (s.setAddr v).rk = s.rk := rfl
@[simp] theorem State.setAddr_cv (s : State) (v : Word) : (s.setAddr v).cv = s.cv := rfl
@[simp] theorem State.setAddr_buf (s : State) (v : Word) : (s.setAddr v).buf = s.buf := rfl
@[simp] theorem State.setAddr_rstN (s : State) (v : Word) : (s.setAddr v).rstN = s.rstN := rfl
@[simp] theorem State.setAddr_agenda (s : State) (v : Word) : (s.setAddr v).agenda = s.agenda := rfl
@[simp] theorem State.setAddr_resp (s : State) (v : Word) : (s.setAddr v).resp = s.resp := rfl

/-! `State.setLen` -/

@[simp] theorem State.setLen_params (s : State) (v : Word) : (s.setLen v).params = s.params := rfl
@[simp] theorem State.setLen_addr (s : State) (v : Word) : (s.setLen v).addr = s.addr := rfl
@[simp] theorem State.setLen_len (s : State) (v : Word) : (s.setLen v).len = v := rfl
@[simp] theorem State.setLen_key (s : State) (v : Word) : (s.setLen v).key = s.key := rfl
@[simp] theorem State.setLen_ivin (s : State) (v : Word) : (s.setLen v).ivin = s.ivin := rfl
@[simp] theorem State.setLen_intstat (s : State) (v : Word) : (s.setLen v).intstat = s.intstat := rfl
@[simp] theorem State.setLen_inten (s : State) (v : Word) : (s.setLen v).inten = s.inten := rfl
@[simp] theorem State.setLen_err (s : State) (v : Word) : (s.setLen v).err = s.err := rfl
@[simp] theorem State.setLen_errCode (s : State) (v : Word) : (s.setLen v).errCode = s.errCode := rfl
@[simp] theorem State.setLen_busy (s : State) (v : Word) : (s.setLen v).busy = s.busy := rfl
@[simp] theorem State.setLen_keyValid (s : State) (v : Word) : (s.setLen v).keyValid = s.keyValid := rfl
@[simp] theorem State.setLen_ivValid (s : State) (v : Word) : (s.setLen v).ivValid = s.ivValid := rfl
@[simp] theorem State.setLen_ksCur (s : State) (v : Word) : (s.setLen v).ksCur = s.ksCur := rfl
@[simp] theorem State.setLen_lat (s : State) (v : Word) : (s.setLen v).lat = s.lat := rfl
@[simp] theorem State.setLen_rk (s : State) (v : Word) : (s.setLen v).rk = s.rk := rfl
@[simp] theorem State.setLen_cv (s : State) (v : Word) : (s.setLen v).cv = s.cv := rfl
@[simp] theorem State.setLen_buf (s : State) (v : Word) : (s.setLen v).buf = s.buf := rfl
@[simp] theorem State.setLen_rstN (s : State) (v : Word) : (s.setLen v).rstN = s.rstN := rfl
@[simp] theorem State.setLen_agenda (s : State) (v : Word) : (s.setLen v).agenda = s.agenda := rfl
@[simp] theorem State.setLen_resp (s : State) (v : Word) : (s.setLen v).resp = s.resp := rfl

/-! `State.setKey` -/

@[simp] theorem State.setKey_params (s : State) (n : Fin 8) (v : Word) : (s.setKey n v).params = s.params := rfl
@[simp] theorem State.setKey_addr (s : State) (n : Fin 8) (v : Word) : (s.setKey n v).addr = s.addr := rfl
@[simp] theorem State.setKey_len (s : State) (n : Fin 8) (v : Word) : (s.setKey n v).len = s.len := rfl
@[simp] theorem State.setKey_key (s : State) (n : Fin 8) (v : Word) : (s.setKey n v).key = s.key.set n v := rfl
@[simp] theorem State.setKey_ivin (s : State) (n : Fin 8) (v : Word) : (s.setKey n v).ivin = s.ivin := rfl
@[simp] theorem State.setKey_intstat (s : State) (n : Fin 8) (v : Word) : (s.setKey n v).intstat = s.intstat := rfl
@[simp] theorem State.setKey_inten (s : State) (n : Fin 8) (v : Word) : (s.setKey n v).inten = s.inten := rfl
@[simp] theorem State.setKey_err (s : State) (n : Fin 8) (v : Word) : (s.setKey n v).err = s.err := rfl
@[simp] theorem State.setKey_errCode (s : State) (n : Fin 8) (v : Word) : (s.setKey n v).errCode = s.errCode := rfl
@[simp] theorem State.setKey_busy (s : State) (n : Fin 8) (v : Word) : (s.setKey n v).busy = s.busy := rfl
@[simp] theorem State.setKey_keyValid (s : State) (n : Fin 8) (v : Word) : (s.setKey n v).keyValid = s.keyValid := rfl
@[simp] theorem State.setKey_ivValid (s : State) (n : Fin 8) (v : Word) : (s.setKey n v).ivValid = s.ivValid := rfl
@[simp] theorem State.setKey_ksCur (s : State) (n : Fin 8) (v : Word) : (s.setKey n v).ksCur = s.ksCur := rfl
@[simp] theorem State.setKey_lat (s : State) (n : Fin 8) (v : Word) : (s.setKey n v).lat = s.lat := rfl
@[simp] theorem State.setKey_rk (s : State) (n : Fin 8) (v : Word) : (s.setKey n v).rk = s.rk := rfl
@[simp] theorem State.setKey_cv (s : State) (n : Fin 8) (v : Word) : (s.setKey n v).cv = s.cv := rfl
@[simp] theorem State.setKey_buf (s : State) (n : Fin 8) (v : Word) : (s.setKey n v).buf = s.buf := rfl
@[simp] theorem State.setKey_rstN (s : State) (n : Fin 8) (v : Word) : (s.setKey n v).rstN = s.rstN := rfl
@[simp] theorem State.setKey_agenda (s : State) (n : Fin 8) (v : Word) : (s.setKey n v).agenda = s.agenda := rfl
@[simp] theorem State.setKey_resp (s : State) (n : Fin 8) (v : Word) : (s.setKey n v).resp = s.resp := rfl

/-! `State.setIvin` -/

@[simp] theorem State.setIvin_params (s : State) (n : Fin 4) (v : Word) : (s.setIvin n v).params = s.params := rfl
@[simp] theorem State.setIvin_addr (s : State) (n : Fin 4) (v : Word) : (s.setIvin n v).addr = s.addr := rfl
@[simp] theorem State.setIvin_len (s : State) (n : Fin 4) (v : Word) : (s.setIvin n v).len = s.len := rfl
@[simp] theorem State.setIvin_key (s : State) (n : Fin 4) (v : Word) : (s.setIvin n v).key = s.key := rfl
@[simp] theorem State.setIvin_ivin (s : State) (n : Fin 4) (v : Word) : (s.setIvin n v).ivin = s.ivin.set n v := rfl
@[simp] theorem State.setIvin_intstat (s : State) (n : Fin 4) (v : Word) : (s.setIvin n v).intstat = s.intstat := rfl
@[simp] theorem State.setIvin_inten (s : State) (n : Fin 4) (v : Word) : (s.setIvin n v).inten = s.inten := rfl
@[simp] theorem State.setIvin_err (s : State) (n : Fin 4) (v : Word) : (s.setIvin n v).err = s.err := rfl
@[simp] theorem State.setIvin_errCode (s : State) (n : Fin 4) (v : Word) : (s.setIvin n v).errCode = s.errCode := rfl
@[simp] theorem State.setIvin_busy (s : State) (n : Fin 4) (v : Word) : (s.setIvin n v).busy = s.busy := rfl
@[simp] theorem State.setIvin_keyValid (s : State) (n : Fin 4) (v : Word) : (s.setIvin n v).keyValid = s.keyValid := rfl
@[simp] theorem State.setIvin_ivValid (s : State) (n : Fin 4) (v : Word) : (s.setIvin n v).ivValid = s.ivValid := rfl
@[simp] theorem State.setIvin_ksCur (s : State) (n : Fin 4) (v : Word) : (s.setIvin n v).ksCur = s.ksCur := rfl
@[simp] theorem State.setIvin_lat (s : State) (n : Fin 4) (v : Word) : (s.setIvin n v).lat = s.lat := rfl
@[simp] theorem State.setIvin_rk (s : State) (n : Fin 4) (v : Word) : (s.setIvin n v).rk = s.rk := rfl
@[simp] theorem State.setIvin_cv (s : State) (n : Fin 4) (v : Word) : (s.setIvin n v).cv = s.cv := rfl
@[simp] theorem State.setIvin_buf (s : State) (n : Fin 4) (v : Word) : (s.setIvin n v).buf = s.buf := rfl
@[simp] theorem State.setIvin_rstN (s : State) (n : Fin 4) (v : Word) : (s.setIvin n v).rstN = s.rstN := rfl
@[simp] theorem State.setIvin_agenda (s : State) (n : Fin 4) (v : Word) : (s.setIvin n v).agenda = s.agenda := rfl
@[simp] theorem State.setIvin_resp (s : State) (n : Fin 4) (v : Word) : (s.setIvin n v).resp = s.resp := rfl

/-! `State.setInten` -/

@[simp] theorem State.setInten_params (s : State) (v : Word) : (s.setInten v).params = s.params := rfl
@[simp] theorem State.setInten_addr (s : State) (v : Word) : (s.setInten v).addr = s.addr := rfl
@[simp] theorem State.setInten_len (s : State) (v : Word) : (s.setInten v).len = s.len := rfl
@[simp] theorem State.setInten_key (s : State) (v : Word) : (s.setInten v).key = s.key := rfl
@[simp] theorem State.setInten_ivin (s : State) (v : Word) : (s.setInten v).ivin = s.ivin := rfl
@[simp] theorem State.setInten_intstat (s : State) (v : Word) : (s.setInten v).intstat = s.intstat := rfl
@[simp] theorem State.setInten_inten (s : State) (v : Word) : (s.setInten v).inten = lowThree v := rfl
@[simp] theorem State.setInten_err (s : State) (v : Word) : (s.setInten v).err = s.err := rfl
@[simp] theorem State.setInten_errCode (s : State) (v : Word) : (s.setInten v).errCode = s.errCode := rfl
@[simp] theorem State.setInten_busy (s : State) (v : Word) : (s.setInten v).busy = s.busy := rfl
@[simp] theorem State.setInten_keyValid (s : State) (v : Word) : (s.setInten v).keyValid = s.keyValid := rfl
@[simp] theorem State.setInten_ivValid (s : State) (v : Word) : (s.setInten v).ivValid = s.ivValid := rfl
@[simp] theorem State.setInten_ksCur (s : State) (v : Word) : (s.setInten v).ksCur = s.ksCur := rfl
@[simp] theorem State.setInten_lat (s : State) (v : Word) : (s.setInten v).lat = s.lat := rfl
@[simp] theorem State.setInten_rk (s : State) (v : Word) : (s.setInten v).rk = s.rk := rfl
@[simp] theorem State.setInten_cv (s : State) (v : Word) : (s.setInten v).cv = s.cv := rfl
@[simp] theorem State.setInten_buf (s : State) (v : Word) : (s.setInten v).buf = s.buf := rfl
@[simp] theorem State.setInten_rstN (s : State) (v : Word) : (s.setInten v).rstN = s.rstN := rfl
@[simp] theorem State.setInten_agenda (s : State) (v : Word) : (s.setInten v).agenda = s.agenda := rfl
@[simp] theorem State.setInten_resp (s : State) (v : Word) : (s.setInten v).resp = s.resp := rfl

/-! `State.setBufWord` -/

@[simp] theorem State.setBufWord_params (s : State) (n : Nat) (v : Word) : (s.setBufWord n v).params = s.params := rfl
@[simp] theorem State.setBufWord_addr (s : State) (n : Nat) (v : Word) : (s.setBufWord n v).addr = s.addr := rfl
@[simp] theorem State.setBufWord_len (s : State) (n : Nat) (v : Word) : (s.setBufWord n v).len = s.len := rfl
@[simp] theorem State.setBufWord_key (s : State) (n : Nat) (v : Word) : (s.setBufWord n v).key = s.key := rfl
@[simp] theorem State.setBufWord_ivin (s : State) (n : Nat) (v : Word) : (s.setBufWord n v).ivin = s.ivin := rfl
@[simp] theorem State.setBufWord_intstat (s : State) (n : Nat) (v : Word) : (s.setBufWord n v).intstat = s.intstat := rfl
@[simp] theorem State.setBufWord_inten (s : State) (n : Nat) (v : Word) : (s.setBufWord n v).inten = s.inten := rfl
@[simp] theorem State.setBufWord_err (s : State) (n : Nat) (v : Word) : (s.setBufWord n v).err = s.err := rfl
@[simp] theorem State.setBufWord_errCode (s : State) (n : Nat) (v : Word) : (s.setBufWord n v).errCode = s.errCode := rfl
@[simp] theorem State.setBufWord_busy (s : State) (n : Nat) (v : Word) : (s.setBufWord n v).busy = s.busy := rfl
@[simp] theorem State.setBufWord_keyValid (s : State) (n : Nat) (v : Word) : (s.setBufWord n v).keyValid = s.keyValid := rfl
@[simp] theorem State.setBufWord_ivValid (s : State) (n : Nat) (v : Word) : (s.setBufWord n v).ivValid = s.ivValid := rfl
@[simp] theorem State.setBufWord_ksCur (s : State) (n : Nat) (v : Word) : (s.setBufWord n v).ksCur = s.ksCur := rfl
@[simp] theorem State.setBufWord_lat (s : State) (n : Nat) (v : Word) : (s.setBufWord n v).lat = s.lat := rfl
@[simp] theorem State.setBufWord_rk (s : State) (n : Nat) (v : Word) : (s.setBufWord n v).rk = s.rk := rfl
@[simp] theorem State.setBufWord_cv (s : State) (n : Nat) (v : Word) : (s.setBufWord n v).cv = s.cv := rfl
@[simp] theorem State.setBufWord_buf (s : State) (n : Nat) (v : Word) : (s.setBufWord n v).buf = memWrite s.buf (4 * n) (wordLanes v).bytes := rfl
@[simp] theorem State.setBufWord_rstN (s : State) (n : Nat) (v : Word) : (s.setBufWord n v).rstN = s.rstN := rfl
@[simp] theorem State.setBufWord_agenda (s : State) (n : Nat) (v : Word) : (s.setBufWord n v).agenda = s.agenda := rfl
@[simp] theorem State.setBufWord_resp (s : State) (n : Nat) (v : Word) : (s.setBufWord n v).resp = s.resp := rfl

/-! `State.dropWrite` -/

@[simp] theorem State.dropWrite_params (s : State) : (s.dropWrite).params = s.params := rfl
@[simp] theorem State.dropWrite_addr (s : State) : (s.dropWrite).addr = s.addr := rfl
@[simp] theorem State.dropWrite_len (s : State) : (s.dropWrite).len = s.len := rfl
@[simp] theorem State.dropWrite_key (s : State) : (s.dropWrite).key = s.key := rfl
@[simp] theorem State.dropWrite_ivin (s : State) : (s.dropWrite).ivin = s.ivin := rfl
@[simp] theorem State.dropWrite_intstat (s : State) : (s.dropWrite).intstat = s.intstat ||| intDrop := rfl
@[simp] theorem State.dropWrite_inten (s : State) : (s.dropWrite).inten = s.inten := rfl
@[simp] theorem State.dropWrite_err (s : State) : (s.dropWrite).err = s.err := rfl
@[simp] theorem State.dropWrite_errCode (s : State) : (s.dropWrite).errCode = s.errCode := rfl
@[simp] theorem State.dropWrite_busy (s : State) : (s.dropWrite).busy = s.busy := rfl
@[simp] theorem State.dropWrite_keyValid (s : State) : (s.dropWrite).keyValid = s.keyValid := rfl
@[simp] theorem State.dropWrite_ivValid (s : State) : (s.dropWrite).ivValid = s.ivValid := rfl
@[simp] theorem State.dropWrite_ksCur (s : State) : (s.dropWrite).ksCur = s.ksCur := rfl
@[simp] theorem State.dropWrite_lat (s : State) : (s.dropWrite).lat = s.lat := rfl
@[simp] theorem State.dropWrite_rk (s : State) : (s.dropWrite).rk = s.rk := rfl
@[simp] theorem State.dropWrite_cv (s : State) : (s.dropWrite).cv = s.cv := rfl
@[simp] theorem State.dropWrite_buf (s : State) : (s.dropWrite).buf = s.buf := rfl
@[simp] theorem State.dropWrite_rstN (s : State) : (s.dropWrite).rstN = s.rstN := rfl
@[simp] theorem State.dropWrite_agenda (s : State) : (s.dropWrite).agenda = s.agenda := rfl
@[simp] theorem State.dropWrite_resp (s : State) : (s.dropWrite).resp = s.resp := rfl

/-! `State.respond` -/

@[simp] theorem State.respond_params (s : State) (r : BusResponse) : (s.respond r).params = s.params := rfl
@[simp] theorem State.respond_addr (s : State) (r : BusResponse) : (s.respond r).addr = s.addr := rfl
@[simp] theorem State.respond_len (s : State) (r : BusResponse) : (s.respond r).len = s.len := rfl
@[simp] theorem State.respond_key (s : State) (r : BusResponse) : (s.respond r).key = s.key := rfl
@[simp] theorem State.respond_ivin (s : State) (r : BusResponse) : (s.respond r).ivin = s.ivin := rfl
@[simp] theorem State.respond_intstat (s : State) (r : BusResponse) : (s.respond r).intstat = s.intstat := rfl
@[simp] theorem State.respond_inten (s : State) (r : BusResponse) : (s.respond r).inten = s.inten := rfl
@[simp] theorem State.respond_err (s : State) (r : BusResponse) : (s.respond r).err = s.err := rfl
@[simp] theorem State.respond_errCode (s : State) (r : BusResponse) : (s.respond r).errCode = s.errCode := rfl
@[simp] theorem State.respond_busy (s : State) (r : BusResponse) : (s.respond r).busy = s.busy := rfl
@[simp] theorem State.respond_keyValid (s : State) (r : BusResponse) : (s.respond r).keyValid = s.keyValid := rfl
@[simp] theorem State.respond_ivValid (s : State) (r : BusResponse) : (s.respond r).ivValid = s.ivValid := rfl
@[simp] theorem State.respond_ksCur (s : State) (r : BusResponse) : (s.respond r).ksCur = s.ksCur := rfl
@[simp] theorem State.respond_lat (s : State) (r : BusResponse) : (s.respond r).lat = s.lat := rfl
@[simp] theorem State.respond_rk (s : State) (r : BusResponse) : (s.respond r).rk = s.rk := rfl
@[simp] theorem State.respond_cv (s : State) (r : BusResponse) : (s.respond r).cv = s.cv := rfl
@[simp] theorem State.respond_buf (s : State) (r : BusResponse) : (s.respond r).buf = s.buf := rfl
@[simp] theorem State.respond_rstN (s : State) (r : BusResponse) : (s.respond r).rstN = s.rstN := rfl
@[simp] theorem State.respond_agenda (s : State) (r : BusResponse) : (s.respond r).agenda = s.agenda := rfl
@[simp] theorem State.respond_resp (s : State) (r : BusResponse) : (s.respond r).resp = some r := rfl

/-! `State.noResponse` -/

@[simp] theorem State.noResponse_params (s : State) : (s.noResponse).params = s.params := rfl
@[simp] theorem State.noResponse_addr (s : State) : (s.noResponse).addr = s.addr := rfl
@[simp] theorem State.noResponse_len (s : State) : (s.noResponse).len = s.len := rfl
@[simp] theorem State.noResponse_key (s : State) : (s.noResponse).key = s.key := rfl
@[simp] theorem State.noResponse_ivin (s : State) : (s.noResponse).ivin = s.ivin := rfl
@[simp] theorem State.noResponse_intstat (s : State) : (s.noResponse).intstat = s.intstat := rfl
@[simp] theorem State.noResponse_inten (s : State) : (s.noResponse).inten = s.inten := rfl
@[simp] theorem State.noResponse_err (s : State) : (s.noResponse).err = s.err := rfl
@[simp] theorem State.noResponse_errCode (s : State) : (s.noResponse).errCode = s.errCode := rfl
@[simp] theorem State.noResponse_busy (s : State) : (s.noResponse).busy = s.busy := rfl
@[simp] theorem State.noResponse_keyValid (s : State) : (s.noResponse).keyValid = s.keyValid := rfl
@[simp] theorem State.noResponse_ivValid (s : State) : (s.noResponse).ivValid = s.ivValid := rfl
@[simp] theorem State.noResponse_ksCur (s : State) : (s.noResponse).ksCur = s.ksCur := rfl
@[simp] theorem State.noResponse_lat (s : State) : (s.noResponse).lat = s.lat := rfl
@[simp] theorem State.noResponse_rk (s : State) : (s.noResponse).rk = s.rk := rfl
@[simp] theorem State.noResponse_cv (s : State) : (s.noResponse).cv = s.cv := rfl
@[simp] theorem State.noResponse_buf (s : State) : (s.noResponse).buf = s.buf := rfl
@[simp] theorem State.noResponse_rstN (s : State) : (s.noResponse).rstN = s.rstN := rfl
@[simp] theorem State.noResponse_agenda (s : State) : (s.noResponse).agenda = s.agenda := rfl
@[simp] theorem State.noResponse_resp (s : State) : (s.noResponse).resp = none := rfl

/-! `State.withAgenda` -/

@[simp] theorem State.withAgenda_params (s : State) (l : List Event) : (s.withAgenda l).params = s.params := rfl
@[simp] theorem State.withAgenda_addr (s : State) (l : List Event) : (s.withAgenda l).addr = s.addr := rfl
@[simp] theorem State.withAgenda_len (s : State) (l : List Event) : (s.withAgenda l).len = s.len := rfl
@[simp] theorem State.withAgenda_key (s : State) (l : List Event) : (s.withAgenda l).key = s.key := rfl
@[simp] theorem State.withAgenda_ivin (s : State) (l : List Event) : (s.withAgenda l).ivin = s.ivin := rfl
@[simp] theorem State.withAgenda_intstat (s : State) (l : List Event) : (s.withAgenda l).intstat = s.intstat := rfl
@[simp] theorem State.withAgenda_inten (s : State) (l : List Event) : (s.withAgenda l).inten = s.inten := rfl
@[simp] theorem State.withAgenda_err (s : State) (l : List Event) : (s.withAgenda l).err = s.err := rfl
@[simp] theorem State.withAgenda_errCode (s : State) (l : List Event) : (s.withAgenda l).errCode = s.errCode := rfl
@[simp] theorem State.withAgenda_busy (s : State) (l : List Event) : (s.withAgenda l).busy = s.busy := rfl
@[simp] theorem State.withAgenda_keyValid (s : State) (l : List Event) : (s.withAgenda l).keyValid = s.keyValid := rfl
@[simp] theorem State.withAgenda_ivValid (s : State) (l : List Event) : (s.withAgenda l).ivValid = s.ivValid := rfl
@[simp] theorem State.withAgenda_ksCur (s : State) (l : List Event) : (s.withAgenda l).ksCur = s.ksCur := rfl
@[simp] theorem State.withAgenda_lat (s : State) (l : List Event) : (s.withAgenda l).lat = s.lat := rfl
@[simp] theorem State.withAgenda_rk (s : State) (l : List Event) : (s.withAgenda l).rk = s.rk := rfl
@[simp] theorem State.withAgenda_cv (s : State) (l : List Event) : (s.withAgenda l).cv = s.cv := rfl
@[simp] theorem State.withAgenda_buf (s : State) (l : List Event) : (s.withAgenda l).buf = s.buf := rfl
@[simp] theorem State.withAgenda_rstN (s : State) (l : List Event) : (s.withAgenda l).rstN = s.rstN := rfl
@[simp] theorem State.withAgenda_agenda (s : State) (l : List Event) : (s.withAgenda l).agenda = l := rfl
@[simp] theorem State.withAgenda_resp (s : State) (l : List Event) : (s.withAgenda l).resp = s.resp := rfl

/-! `State.assertReset` -/

@[simp] theorem State.assertReset_params (s : State) : (s.assertReset).params = s.params := rfl
@[simp] theorem State.assertReset_addr (s : State) : (s.assertReset).addr = 0#32 := rfl
@[simp] theorem State.assertReset_len (s : State) : (s.assertReset).len = 0#32 := rfl
@[simp] theorem State.assertReset_key (s : State) : (s.assertReset).key = Vector.replicate 8 0#32 := rfl
@[simp] theorem State.assertReset_ivin (s : State) : (s.assertReset).ivin = Vector.replicate 4 0#32 := rfl
@[simp] theorem State.assertReset_intstat (s : State) : (s.assertReset).intstat = 0#3 := rfl
@[simp] theorem State.assertReset_inten (s : State) : (s.assertReset).inten = 0#3 := rfl
@[simp] theorem State.assertReset_err (s : State) : (s.assertReset).err = false := rfl
@[simp] theorem State.assertReset_errCode (s : State) : (s.assertReset).errCode = none := rfl
@[simp] theorem State.assertReset_busy (s : State) : (s.assertReset).busy = false := rfl
@[simp] theorem State.assertReset_keyValid (s : State) : (s.assertReset).keyValid = false := rfl
@[simp] theorem State.assertReset_ivValid (s : State) : (s.assertReset).ivValid = false := rfl
@[simp] theorem State.assertReset_ksCur (s : State) : (s.assertReset).ksCur = .k128 := rfl
@[simp] theorem State.assertReset_lat (s : State) : (s.assertReset).lat = ⟨0#4, 0#2, 0#32, 0#32⟩ := rfl
@[simp] theorem State.assertReset_rk (s : State) : (s.assertReset).rk = Vector.replicate 60 zeroQuad := rfl
@[simp] theorem State.assertReset_cv (s : State) : (s.assertReset).cv = zeroBlock := rfl
@[simp] theorem State.assertReset_buf (s : State) : (s.assertReset).buf = [] := rfl
@[simp] theorem State.assertReset_rstN (s : State) : (s.assertReset).rstN = false := rfl
@[simp] theorem State.assertReset_agenda (s : State) : (s.assertReset).agenda = s.agenda := rfl
@[simp] theorem State.assertReset_resp (s : State) : (s.assertReset).resp = none := rfl

/-! `State.releaseReset` -/

@[simp] theorem State.releaseReset_params (s : State) : (s.releaseReset).params = s.params := rfl
@[simp] theorem State.releaseReset_addr (s : State) : (s.releaseReset).addr = s.addr := rfl
@[simp] theorem State.releaseReset_len (s : State) : (s.releaseReset).len = s.len := rfl
@[simp] theorem State.releaseReset_key (s : State) : (s.releaseReset).key = s.key := rfl
@[simp] theorem State.releaseReset_ivin (s : State) : (s.releaseReset).ivin = s.ivin := rfl
@[simp] theorem State.releaseReset_intstat (s : State) : (s.releaseReset).intstat = s.intstat := rfl
@[simp] theorem State.releaseReset_inten (s : State) : (s.releaseReset).inten = s.inten := rfl
@[simp] theorem State.releaseReset_err (s : State) : (s.releaseReset).err = s.err := rfl
@[simp] theorem State.releaseReset_errCode (s : State) : (s.releaseReset).errCode = s.errCode := rfl
@[simp] theorem State.releaseReset_busy (s : State) : (s.releaseReset).busy = s.busy := rfl
@[simp] theorem State.releaseReset_keyValid (s : State) : (s.releaseReset).keyValid = s.keyValid := rfl
@[simp] theorem State.releaseReset_ivValid (s : State) : (s.releaseReset).ivValid = s.ivValid := rfl
@[simp] theorem State.releaseReset_ksCur (s : State) : (s.releaseReset).ksCur = s.ksCur := rfl
@[simp] theorem State.releaseReset_lat (s : State) : (s.releaseReset).lat = s.lat := rfl
@[simp] theorem State.releaseReset_rk (s : State) : (s.releaseReset).rk = s.rk := rfl
@[simp] theorem State.releaseReset_cv (s : State) : (s.releaseReset).cv = s.cv := rfl
@[simp] theorem State.releaseReset_buf (s : State) : (s.releaseReset).buf = s.buf := rfl
@[simp] theorem State.releaseReset_rstN (s : State) : (s.releaseReset).rstN = true := rfl
@[simp] theorem State.releaseReset_agenda (s : State) : (s.releaseReset).agenda = s.agenda := rfl
@[simp] theorem State.releaseReset_resp (s : State) : (s.releaseReset).resp = s.resp := rfl

/-! `State.initial` -/

@[simp] theorem State.initial_params (p : Params) : (State.initial p).params = p := rfl
@[simp] theorem State.initial_addr (p : Params) : (State.initial p).addr = 0#32 := rfl
@[simp] theorem State.initial_len (p : Params) : (State.initial p).len = 0#32 := rfl
@[simp] theorem State.initial_key (p : Params) : (State.initial p).key = Vector.replicate 8 0#32 := rfl
@[simp] theorem State.initial_ivin (p : Params) : (State.initial p).ivin = Vector.replicate 4 0#32 := rfl
@[simp] theorem State.initial_intstat (p : Params) : (State.initial p).intstat = 0#3 := rfl
@[simp] theorem State.initial_inten (p : Params) : (State.initial p).inten = 0#3 := rfl
@[simp] theorem State.initial_err (p : Params) : (State.initial p).err = false := rfl
@[simp] theorem State.initial_errCode (p : Params) : (State.initial p).errCode = none := rfl
@[simp] theorem State.initial_busy (p : Params) : (State.initial p).busy = false := rfl
@[simp] theorem State.initial_keyValid (p : Params) : (State.initial p).keyValid = false := rfl
@[simp] theorem State.initial_ivValid (p : Params) : (State.initial p).ivValid = false := rfl
@[simp] theorem State.initial_ksCur (p : Params) : (State.initial p).ksCur = .k128 := rfl
@[simp] theorem State.initial_lat (p : Params) : (State.initial p).lat = ⟨0#4, 0#2, 0#32, 0#32⟩ := rfl
@[simp] theorem State.initial_rk (p : Params) : (State.initial p).rk = Vector.replicate 60 zeroQuad := rfl
@[simp] theorem State.initial_cv (p : Params) : (State.initial p).cv = zeroBlock := rfl
@[simp] theorem State.initial_buf (p : Params) : (State.initial p).buf = [] := rfl
@[simp] theorem State.initial_rstN (p : Params) : (State.initial p).rstN = true := rfl
@[simp] theorem State.initial_agenda (p : Params) : (State.initial p).agenda = [] := rfl
@[simp] theorem State.initial_resp (p : Params) : (State.initial p).resp = none := rfl

/-! `withCommandWord` -/

@[simp] theorem withCommandWord_params (s : State) (w : Word) : (withCommandWord s w).params = s.params := rfl
@[simp] theorem withCommandWord_addr (s : State) (w : Word) : (withCommandWord s w).addr = s.addr := rfl
@[simp] theorem withCommandWord_len (s : State) (w : Word) : (withCommandWord s w).len = s.len := rfl
@[simp] theorem withCommandWord_key (s : State) (w : Word) : (withCommandWord s w).key = s.key := rfl
@[simp] theorem withCommandWord_ivin (s : State) (w : Word) : (withCommandWord s w).ivin = s.ivin := rfl
@[simp] theorem withCommandWord_intstat (s : State) (w : Word) : (withCommandWord s w).intstat = s.intstat := rfl
@[simp] theorem withCommandWord_inten (s : State) (w : Word) : (withCommandWord s w).inten = s.inten := rfl
@[simp] theorem withCommandWord_err (s : State) (w : Word) : (withCommandWord s w).err = s.err := rfl
@[simp] theorem withCommandWord_errCode (s : State) (w : Word) : (withCommandWord s w).errCode = s.errCode := rfl
@[simp] theorem withCommandWord_busy (s : State) (w : Word) : (withCommandWord s w).busy = false := rfl
@[simp] theorem withCommandWord_keyValid (s : State) (w : Word) : (withCommandWord s w).keyValid = s.keyValid := rfl
@[simp] theorem withCommandWord_ivValid (s : State) (w : Word) : (withCommandWord s w).ivValid = s.ivValid := rfl
@[simp] theorem withCommandWord_ksCur (s : State) (w : Word) : (withCommandWord s w).ksCur = s.ksCur := rfl
@[simp] theorem withCommandWord_lat (s : State) (w : Word) : (withCommandWord s w).lat = s.lat := rfl
@[simp] theorem withCommandWord_rk (s : State) (w : Word) : (withCommandWord s w).rk = s.rk := rfl
@[simp] theorem withCommandWord_cv (s : State) (w : Word) : (withCommandWord s w).cv = s.cv := rfl
@[simp] theorem withCommandWord_buf (s : State) (w : Word) : (withCommandWord s w).buf = s.buf := rfl
@[simp] theorem withCommandWord_rstN (s : State) (w : Word) : (withCommandWord s w).rstN = true := rfl
@[simp] theorem withCommandWord_agenda (s : State) (w : Word) : (withCommandWord s w).agenda = .hostWrite Reg.cmd.offset w :: s.agenda := rfl
@[simp] theorem withCommandWord_resp (s : State) (w : Word) : (withCommandWord s w).resp = s.resp := rfl

end Sys2Proof.Machine
end

