-- ==== Sys2Proof/Laws/BlockLoop.lean ====
section
/-! SUPPORT. What the block loop of R173 does, once: the chaining value before each block, each block written, every
other byte as before; where it stops; and that a loop over more blocks is two loops. -/

namespace Sys2Proof.Machine

/-- The chaining value before block `k`, for input blocks `bs`. -/
def chainBefore (f : BlockStep) (bs : Nat → Block) (cv : Block) : Nat → Block
  | 0 => cv
  | k + 1 => (f (chainBefore f bs cv k) (bs k)).2

/-- The chaining values from the second block on are those of the rest of the blocks. -/
theorem chainBefore_succ (f : BlockStep) (bs : Nat → Block) (cv : Block) (k : Nat) :
    chainBefore f bs cv (k + 1) = chainBefore f (fun j => bs (j + 1)) (f cv (bs 0)).2 k := by
  induction k with
  | zero => rfl
  | succ k ih => rw [chainBefore, ih]; rfl

/-- The loop's result on a region whose blocks read as `bs`. -/
theorem blockLoop_of_blocks {limit : Nat} (f : BlockStep) {n a : Nat} {cv : Block} {buf : Memory} {bs : Nat → Block}
    (h : ∀ k < n, readBlock limit buf (a + 16 * k) = .ok (bs k)) :
    ∃ buf', blockLoop limit f n a cv buf = .ok (buf', chainBefore f bs cv n) ∧
      (∀ k < n, readBlock limit buf' (a + 16 * k) = .ok (f (chainBefore f bs cv k) (bs k)).1) ∧
      (∀ o, ¬(a ≤ o ∧ o < a + 16 * n) → byteAt? limit buf' o = byteAt? limit buf o) ∧
      (Memory.wf buf → Memory.wf buf') ∧
      ((∀ c ∈ buf, c.1 < limit) → ∀ c ∈ buf', c.1 < limit) := by
  induction n generalizing a cv buf bs with
  | zero => exact ⟨buf, rfl, by simp, by simp, id, id⟩
  | succ n ih =>
    have h0 : readBlock limit buf a = .ok (bs 0) := by simpa using h 0 (by omega)
    have hle := readBlock_ok_le h0
    have hrest : ∀ k < n, readBlock limit (writeBlock buf a (f cv (bs 0)).1) (a + 16 + 16 * k) = .ok (bs (k + 1)) := by
      intro k hk
      rw [readBlock_ok_iff]
      intro j hj
      rw [byteAt?_writeBlock, if_neg (by omega)]
      have := (readBlock_ok_iff _ _ _ _).mp (h (k + 1) (by omega)) j hj
      rwa [show a + 16 * (k + 1) + j = a + 16 + 16 * k + j by omega] at this
    obtain ⟨buf', he, hb, ho, hw, hi⟩ := ih (cv := (f cv (bs 0)).2) hrest
    refine ⟨buf', ?_, ?_, ?_, fun w => hw (writeBlock_wf _ _ w), fun w => hi (writeBlock_inside hle w)⟩
    · rw [blockLoop, h0, chainBefore_succ]
      exact he
    · intro k hk
      cases k with
      | zero =>
        rw [readBlock_ok_iff]
        intro j hj
        rw [ho _ (by omega), byteAt?_writeBlock, if_pos (by omega)]
        simp [chainBefore]
      | succ k =>
        rw [chainBefore_succ, show a + 16 * (k + 1) = a + 16 + 16 * k by omega]
        exact hb k (by omega)
    · intro o hout
      rw [ho o (by omega), byteAt?_writeBlock, if_neg (by omega)]

/-- A region all of whose bytes hold values is a sequence of blocks. -/
theorem blocks_of_readable {limit : Nat} {buf : Memory} {a n : Nat}
    (h : ∀ o, a ≤ o → o < a + 16 * n → (byteAt? limit buf o).isSome = true) :
    ∃ bs : Nat → Block, ∀ k < n, readBlock limit buf (a + 16 * k) = .ok (bs k) := by
  refine ⟨fun k => match readBlock limit buf (a + 16 * k) with | .ok b => b | .error _ => zeroBlock, ?_⟩
  intro k hk
  obtain ⟨b, hb⟩ := readBlock_of_readable (limit := limit) (buf := buf) (a := a + 16 * k)
    (fun o h1 h2 => h o (by omega) (by omega))
  simp [hb]

/-- Where the loop ends, its region was a sequence of blocks. -/
theorem blocks_of_blockLoop {limit : Nat} {f : BlockStep} {n a : Nat} {cv : Block} {buf : Memory}
    {r : Memory × Block} (h : blockLoop limit f n a cv buf = .ok r) :
    ∃ bs : Nat → Block, ∀ k < n, readBlock limit buf (a + 16 * k) = .ok (bs k) := by
  induction n generalizing a cv buf with
  | zero => exact ⟨fun _ => zeroBlock, by simp⟩
  | succ n ih =>
    rw [blockLoop] at h
    cases h0 : readBlock limit buf a with
    | error e => simp [h0] at h
    | ok b =>
      simp only [h0] at h
      obtain ⟨bs, hbs⟩ := ih h
      refine ⟨fun k => if k = 0 then b else bs (k - 1), ?_⟩
      intro k hk
      cases k with
      | zero => simpa using h0
      | succ k =>
        have := hbs k (by omega)
        rw [readBlock_ok_iff] at this ⊢
        intro j hj
        have := this j hj
        rw [byteAt?_writeBlock, if_neg (by omega)] at this
        simpa [show a + 16 * (k + 1) + j = a + 16 + 16 * k + j by omega] using this

/-- Where the loop stops with a fault, it is the first byte of the region that holds no value (R49). -/
theorem blockLoop_error {limit : Nat} {f : BlockStep} {n a : Nat} {cv : Block} {buf : Memory} {e : Fault}
    (h : blockLoop limit f n a cv buf = .error e) :
    ∃ o, e = .unwrittenRead o ∧ a ≤ o ∧ o < a + 16 * n ∧ byteAt? limit buf o = none ∧
      ∀ p, a ≤ p → p < o → (byteAt? limit buf p).isSome = true := by
  induction n generalizing a cv buf with
  | zero => simp [blockLoop] at h
  | succ n ih =>
    rw [blockLoop] at h
    cases h0 : readBlock limit buf a with
    | error e' =>
      simp only [h0] at h
      obtain rfl : e' = e := by simpa using h
      unfold readBlock at h0
      rcases memRead_cases limit buf a 16 with ⟨l, hl, -, -⟩ | ⟨o, ho, h1, h2, h3, h4⟩
      · simp [hl] at h0
      · refine ⟨o, ?_, h1, by omega, h3, h4⟩
        rw [ho] at h0
        simpa using h0.symm
    | ok b =>
      simp only [h0] at h
      obtain ⟨o, rfl, h1, h2, h3, h4⟩ := ih h
      have hb := (readBlock_ok_iff _ _ _ _).mp h0
      refine ⟨o, rfl, by omega, by omega, ?_, ?_⟩
      · rwa [byteAt?_writeBlock, if_neg (by omega)] at h3
      · intro p hp hpo
        by_cases hlt : p < a + 16
        · have := hb (p - a) (by omega)
          rw [show a + (p - a) = p by omega] at this
          simp [this]
        · have := h4 p (by omega) hpo
          rwa [byteAt?_writeBlock, if_neg (by omega)] at this

/-- A loop over `m + n` blocks is a loop over `m` and then one over the next `n` (R174). -/
theorem blockLoop_add (limit : Nat) (f : BlockStep) (m n a : Nat) (cv : Block) (buf : Memory) :
    blockLoop limit f (m + n) a cv buf =
      match blockLoop limit f m a cv buf with
      | .error e => .error e
      | .ok r => blockLoop limit f n (a + 16 * m) r.2 r.1 := by
  induction m generalizing a cv buf with
  | zero => simp [blockLoop]
  | succ m ih =>
    rw [show m + 1 + n = (m + n) + 1 by omega, blockLoop, blockLoop]
    cases readBlock limit buf a with
    | error e => rfl
    | ok b => simp only [ih, show a + 16 + 16 * m = a + 16 * (m + 1) by omega]

end Sys2Proof.Machine
end

