-- ==== Sys2Proof/Laws/Ops.lean ====
section
/-! SUPPORT. What each shared operation can do: submission (R170, R201), the lifecycle of a command, the effect of a data
command, the host port, the engine's step, and the step itself. -/

namespace Sys2Proof.Machine

/-! Submission -/

/-- A submission is a rejection with the first failing check, or an acceptance. -/
theorem submitCommand_cases (i : Instr) (s : State) :
    (∃ e, checkCommand i s = some e ∧ submitCommand i s = s.reject e) ∨
    (checkCommand i s = none ∧ submitCommand i s = s.accept i) := by
  unfold submitCommand
  cases h : checkCommand i s with
  | none => exact .inr ⟨rfl, rfl⟩
  | some e => exact .inl ⟨e, rfl, rfl⟩

/-- What an accepted command has passed (R201). -/
theorem checkCommand_eq_none_iff (i : Instr) (s : State) :
    checkCommand i s = none ↔ i.wellFormed = true ∧ (isData i = true → s.keyValid = true) ∧
      (isChaining i = true → s.ivValid = true) ∧
      (isData i = true → s.addr.toNat % 16 = 0 ∧ s.len.toNat % 16 = 0 ∧
        s.addr.toNat + s.len.toNat ≤ s.params.bufBytes) := by
  unfold checkCommand
  split
  · rename_i h; simp [h]
  split
  · rename_i h; simp [h.1, h.2]
  split
  · rename_i h; simp [h.1, h.2]
  split
  · rename_i h
    simp only [h.1, reduceCtorEq, false_iff, forall_const]
    rintro ⟨-, -, -, h1, h2, -⟩
    exact h.2.elim (· h1) (· h2)
  split
  · rename_i h
    simp only [h.1, reduceCtorEq, false_iff, forall_const]
    rintro ⟨-, -, -, -, -, h1⟩
    exact absurd h.2 (by omega)
  · rename_i h1 h2 h3 h4 h5
    simp only [true_iff]
    refine ⟨by simpa using h1, fun hd => by simpa [hd] using h2, fun hc => by simpa [hc] using h3, fun hd => ?_⟩
    simp only [hd, true_and, not_or, not_not] at h4 h5
    exact ⟨h4.1, h4.2, by omega⟩

/-! The lifecycle -/

theorem lifecycle_idle {i : Instr} {effect : State → Host.Outcome State Fault Refusal} {s : State}
    (h : s.busy = false) : lifecycle i effect s = .next (submitCommand i s) := by
  simp [lifecycle, h]

/-- A completion answers a next state exactly when the effect does, and then ends it (R171). -/
theorem lifecycle_busy_next {i : Instr} {effect : State → Host.Outcome State Fault Refusal} {s t : State}
    (h : s.busy = true) (he : effect s = .next t) : lifecycle i effect s = .next t.finish := by
  simp [lifecycle, h, he]

theorem lifecycle_busy_fault {i : Instr} {effect : State → Host.Outcome State Fault Refusal} {s : State} {e : Fault}
    (h : s.busy = true) (he : effect s = .fault e) : lifecycle i effect s = .fault e := by
  simp [lifecycle, h, he]

/-- Everything a command can do, by its two events. -/
theorem lifecycle_cases (i : Instr) (effect : State → Host.Outcome State Fault Refusal) (s : State) :
    (s.busy = false ∧ lifecycle i effect s = .next (submitCommand i s)) ∨
    (s.busy = true ∧ ((∃ t, effect s = .next t ∧ lifecycle i effect s = .next t.finish) ∨
      (∃ e, effect s = .fault e ∧ lifecycle i effect s = .fault e) ∨
      (∃ r, effect s = .refused r ∧ lifecycle i effect s = .refused r))) := by
  cases h : s.busy with
  | false => exact .inl ⟨rfl, lifecycle_idle h⟩
  | true =>
    refine .inr ⟨rfl, ?_⟩
    cases he : effect s with
    | next t => exact .inl ⟨t, rfl, lifecycle_busy_next h he⟩
    | fault e => exact .inr (.inl ⟨e, rfl, lifecycle_busy_fault h he⟩)
    | refused r => exact .inr (.inr ⟨r, rfl, by simp [lifecycle, h, he]⟩)

/-! Data commands -/

/-- The effect of a data command on a region whose blocks read as `bs`. -/
theorem dataEffect_of_blocks {f : BlockStep} {s : State} {bs : Nat → Block}
    (h : ∀ k < s.blockCount, readBlock s.params.bufBytes s.buf (s.regionStart + 16 * k) = .ok (bs k)) :
    ∃ buf', dataEffect f s = .next (s.setRegion buf' (chainBefore f bs s.cv s.blockCount)) ∧
      (∀ k < s.blockCount, readBlock s.params.bufBytes buf' (s.regionStart + 16 * k) =
        .ok (f (chainBefore f bs s.cv k) (bs k)).1) ∧
      (∀ o, ¬(s.regionStart ≤ o ∧ o < s.regionStart + 16 * s.blockCount) →
        byteAt? s.params.bufBytes buf' o = byteAt? s.params.bufBytes s.buf o) ∧
      (Memory.wf s.buf → Memory.wf buf') ∧
      ((∀ c ∈ s.buf, c.1 < s.params.bufBytes) → ∀ c ∈ buf', c.1 < s.params.bufBytes) := by
  obtain ⟨buf', he, hrest⟩ := blockLoop_of_blocks f (cv := s.cv) h
  exact ⟨buf', by rw [dataEffect, he], hrest⟩

/-- A data command ends in a next state or at the first byte of its region that holds no value (R49). -/
theorem dataEffect_cases (f : BlockStep) (s : State) :
    (∃ bs : Nat → Block, ∀ k < s.blockCount,
      readBlock s.params.bufBytes s.buf (s.regionStart + 16 * k) = .ok (bs k)) ∨
    (∃ o, dataEffect f s = .fault (.unwrittenRead o) ∧ s.regionStart ≤ o ∧
      o < s.regionStart + 16 * s.blockCount ∧ s.bufByte? o = none ∧
      ∀ p, s.regionStart ≤ p → p < o → (s.bufByte? p).isSome = true) := by
  cases h : blockLoop s.params.bufBytes f s.blockCount s.regionStart s.cv s.buf with
  | ok r => exact .inl (blocks_of_blockLoop h)
  | error e =>
    obtain ⟨o, rfl, h1, h2, h3, h4⟩ := blockLoop_error h
    exact .inr ⟨o, by rw [dataEffect, h], h1, h2, h3, h4⟩

/-! The port -/

/-- A read changes nothing but the response (R66), or stops at a byte that holds no value (R49). -/
theorem hostRead_cases (off : BitVec 16) (s : State) :
    (off.toNat % 4 ≠ 0 ∧ hostRead off s = .next (s.respond (.read false 0#32))) ∨
    (off.toNat % 4 = 0 ∧ ((∃ w, readReg (regAt s.params.bufBytes off.toNat) s = .ok w ∧
        hostRead off s = .next (s.respond (.read true w))) ∨
      (∃ e, readReg (regAt s.params.bufBytes off.toNat) s = .error e ∧ hostRead off s = .fault e))) := by
  unfold hostRead
  by_cases h : off.toNat % 4 ≠ 0
  · exact .inl ⟨h, by simp [h]⟩
  · refine .inr ⟨by omega, ?_⟩
    simp only [h, if_false]
    cases hr : readReg (regAt s.params.bufBytes off.toNat) s with
    | ok w => exact .inl ⟨w, rfl, rfl⟩
    | error e => exact .inr ⟨e, rfl, rfl⟩

/-- The only read that stops is that of a `BUF` word outside the BUSY window (R49). -/
theorem readReg_error {r : Reg} {s : State} {e : Fault} (h : readReg r s = .error e) :
    s.busy = false ∧ ∃ n o, r = .buf n ∧ e = .unwrittenRead o ∧ 4 * n ≤ o ∧ o < 4 * n + 4 ∧ s.bufByte? o = none := by
  cases r with
  | buf n =>
    cases hb : s.busy with
    | true => simp [readReg, hb] at h
    | false =>
      simp only [readReg, hb, readBufWord] at h
      rcases memRead_cases s.params.bufBytes s.buf (4 * n) 4 with ⟨l, hl, -, -⟩ | ⟨o, ho, h1, h2, h3, -⟩
      · simp [hl] at h
      · refine ⟨rfl, n, o, rfl, ?_, h1, h2, h3⟩
        simp [ho] at h
        exact h.symm
  | cv n => cases hb : s.busy <;> simp [readReg, hb] at h
  | rk n => cases hb : s.busy <;> simp [readReg, hb] at h
  | _ => simp [readReg] at h

/-- The order of outcomes of a write (R208). -/
theorem hostWrite_cases (off : BitVec 16) (v : Word) (s : State) :
    (off.toNat % 4 ≠ 0 ∧ hostWrite off v s = .next (s.respond (.write false))) ∨
    (off.toNat % 4 = 0 ∧ s.busy = true ∧ (regAt s.params.bufBytes off.toNat).writableWhileBusy = false ∧
      hostWrite off v s = .next (s.dropWrite.respond (.write true))) ∨
    (off.toNat % 4 = 0 ∧ (s.busy = false ∨ (regAt s.params.bufBytes off.toNat).writableWhileBusy = true) ∧
      hostWrite off v s = writeReg (regAt s.params.bufBytes off.toNat) v (s.respond (.write true))) := by
  unfold hostWrite
  by_cases h : off.toNat % 4 ≠ 0
  · exact .inl ⟨h, by simp [h]⟩
  · have h0 : off.toNat % 4 = 0 := by omega
    cases hb : s.busy <;> cases hw : (regAt s.params.bufBytes off.toNat).writableWhileBusy <;> simp [h0]

/-! The address map -/

@[simp] theorem regAt_offset_intstat (b : Nat) : regAt b 0x0008 = .intstat := rfl
@[simp] theorem regAt_offset_inten (b : Nat) : regAt b 0x000C = .inten := rfl
@[simp] theorem regAt_offset_cmd (b : Nat) : regAt b 0x0010 = .cmd := rfl
@[simp] theorem regAt_offset_status (b : Nat) : regAt b 0x0004 = .status := rfl
@[simp] theorem regAt_offset_config (b : Nat) : regAt b 0x0000 = .config := rfl
@[simp] theorem regAt_offset_addr (b : Nat) : regAt b 0x0014 = .addr := rfl
@[simp] theorem regAt_offset_len (b : Nat) : regAt b 0x0018 = .len := rfl

/-- The size of a buffer (R6). -/
theorem params_bufBytes_mod (p : Params) : p.bufBytes % 16 = 0 ∧ 16 ≤ p.bufBytes ∧ p.bufBytes ≤ 61440 := by
  have := p.legal
  simp [legalBufBytes] at this
  omega

/-! The engine and the step -/

/-- The engine's step: idle, a completion, or the fault of a latch no run holds. -/
theorem engineStep_cases (s : State) :
    (s.busy = false ∧ engineStep s = .next s) ∨
    (s.busy = true ∧ ((∃ i, decodeFields s.lat.op s.lat.ks = .ok i ∧ engineStep s = exec i s) ∨
      (∃ e, decodeFields s.lat.op s.lat.ks = .error e ∧
        engineStep s = .fault (.illegalLatch s.lat.op s.lat.ks)))) := by
  unfold engineStep
  cases h : s.busy with
  | false => exact .inl ⟨rfl, rfl⟩
  | true =>
    refine .inr ⟨rfl, ?_⟩
    cases hd : decodeFields s.lat.op s.lat.ks with
    | ok i => exact .inl ⟨i, rfl, rfl⟩
    | error e => exact .inr ⟨e, rfl, rfl⟩

@[simp] theorem step_nil {s : State} (h : s.agenda = []) : step s = runEvent .engine s := by
  simp [step, nextEvent, h]

@[simp] theorem step_cons {s : State} {e : Event} {rest : List Event} (h : s.agenda = e :: rest) :
    step s = runEvent e (s.withAgenda rest) := by
  simp [step, nextEvent, h]

/-- A step is one event: the first of the agenda, or the engine's turn where none is left. -/
theorem step_cases (s : State) :
    (s.agenda = [] ∧ step s = runEvent .engine s) ∨
    (∃ e rest, s.agenda = e :: rest ∧ step s = runEvent e (s.withAgenda rest)) := by
  cases h : s.agenda with
  | nil => exact .inl ⟨rfl, step_nil h⟩
  | cons e rest => exact .inr ⟨e, rest, rfl, step_cons h⟩

/-- The step that fetches a command word is its `CMD` write. -/
theorem step_withCommandWord (s : State) (w : Word) :
    step (withCommandWord s w) =
      submitWord w (((withCommandWord s w).withAgenda s.agenda).respond (.write true)) := by
  rw [step_cons (withCommandWord_agenda s w)]
  rfl

end Sys2Proof.Machine
end

