-- ==== Sys2Proof/Laws/Exec.lean ====
section
/-! SUPPORT. What a command can do, said once for all eight: its decoding (R97), its acceptance, its effect (R118, R119,
R176 to R181), and the cases of exec. -/

namespace Sys2Proof.Machine

/-- `OP` and `KS` decode to a command exactly when it is legal and they are its fields (R97, R99). -/
theorem decodeFields_ok_iff (op : BitVec 4) (ks : BitVec 2) (i : Instr) :
    decodeFields op ks = .ok i ↔ i.wellFormed = true ∧ i.opcode = op ∧ i.ksBits = ks := by
  cases i <;> revert op ks
  case initKey k => revert k; decide +kernel
  case initKeyIv k => revert k; decide +kernel
  all_goals decide +kernel

/-- A decoded word is legal, its fields are the command's, and its reserved bits are zero. -/
theorem decode_ok {w : Word} {i : Instr} (h : decode w = .ok i) :
    i.wellFormed = true ∧ i.opcode = opField w ∧ i.ksBits = ksField w ∧ rsvField w = 0#26 := by
  unfold decode at h
  split at h
  · exact absurd h (by simp)
  · rename_i hr
    have := (decodeFields_ok_iff _ _ _).mp h
    exact ⟨this.1, this.2.1, this.2.2, by simpa using hr⟩

/-- The effect of a completion (R171), before the flags of its end. -/
def effectOf : Instr → State → Host.Outcome State Fault Refusal
  | .initKey ks, s =>
    match KeySize.ofBits? ks with
    | some k => .next (s.loadKey k)
    | none => .fault (.illegalLatch 0x1#4 ks)
  | .initKeyIv ks, s =>
    match KeySize.ofBits? ks with
    | some k => .next (s.loadKey k).loadIv
    | none => .fault (.illegalLatch 0x2#4 ks)
  | .setIv, s => .next s.loadIv
  | .ecbEnc, s => dataEffect (ecbEncStep s) s
  | .ecbDec, s => dataEffect (ecbDecStep s) s
  | .cbcEnc, s => dataEffect (cbcEncStep s) s
  | .cbcDec, s => dataEffect (cbcDecStep s) s
  | .ctrXcrypt, s => dataEffect (ctrStep s) s

/-- Every command is a lifecycle around its effect. -/
theorem exec_eq_lifecycle (i : Instr) (s : State) : exec i s = lifecycle i (effectOf i) s := by
  cases i <;> rfl

/-- Outside the BUSY window exec is the submission (R170). -/
theorem exec_idle (i : Instr) {s : State} (h : s.busy = false) : exec i s = .next (submitCommand i s) := by
  rw [exec_eq_lifecycle, lifecycle_idle h]

/-- Inside it exec is the completion (R171). -/
theorem exec_busy_next {i : Instr} {s t : State} (h : s.busy = true) (he : effectOf i s = .next t) :
    exec i s = .next t.finish := by
  rw [exec_eq_lifecycle, lifecycle_busy_next h he]

theorem exec_busy_fault {i : Instr} {s : State} {e : Fault} (h : s.busy = true) (he : effectOf i s = .fault e) :
    exec i s = .fault e := by
  rw [exec_eq_lifecycle, lifecycle_busy_fault h he]

/-- What one block of a data command does, as a function of the state at its start. -/
def blockStepOf : Instr → State → BlockStep
  | .ecbEnc, s => ecbEncStep s
  | .ecbDec, s => ecbDecStep s
  | .cbcEnc, s => cbcEncStep s
  | .cbcDec, s => cbcDecStep s
  | .ctrXcrypt, s => ctrStep s
  | .initKey _, _ => fun cv b => (b, cv)
  | .initKeyIv _, _ => fun cv b => (b, cv)
  | .setIv, _ => fun cv b => (b, cv)

/-- The effect of a data command is the block loop of its step. -/
theorem effectOf_data {i : Instr} (h : isData i = true) (s : State) :
    effectOf i s = dataEffect (blockStepOf i s) s := by
  cases i <;> first | rfl | simp [isData] at h

/-- A command that does not chain leaves the chaining value as it is. -/
theorem chainBefore_of_not_chaining {i : Instr} (h : isChaining i = false) (s : State) (bs : Nat → Block) (cv : Block)
    (n : Nat) : chainBefore (blockStepOf i s) bs cv n = cv := by
  induction n with
  | zero => rfl
  | succ n ih =>
    rw [chainBefore, ih]
    cases i <;> first | rfl | simp [isChaining] at h

/-- A buffer after an effect: every byte outside the region as before, the form and the bounds kept. -/
structure RegionOnly (s : State) (m : Memory) : Prop where
  outside : ∀ o, ¬(s.regionStart ≤ o ∧ o < s.regionStart + 16 * s.blockCount) →
    byteAt? s.params.bufBytes m o = s.bufByte? o
  canonical : Memory.wf s.buf → Memory.wf m
  inside : (∀ c ∈ s.buf, c.1 < s.params.bufBytes) → ∀ c ∈ m, c.1 < s.params.bufBytes

/-- A data command writes its region and `CV`, or stops at a byte of its region that holds no value. -/
theorem effectOf_data_cases {i : Instr} (h : isData i = true) (s : State) :
    (∃ m c, effectOf i s = .next (s.setRegion m c) ∧ (isChaining i = false → c = s.cv) ∧ RegionOnly s m) ∨
    (∃ o, effectOf i s = .fault (.unwrittenRead o) ∧ s.regionStart ≤ o ∧
      o < s.regionStart + 16 * s.blockCount ∧ s.bufByte? o = none) := by
  rw [effectOf_data h]
  rcases dataEffect_cases (blockStepOf i s) s with ⟨bs, hbs⟩ | ⟨o, ho, h1, h2, h3, -⟩
  · obtain ⟨m, he, -, ho, hw, hi⟩ := dataEffect_of_blocks (f := blockStepOf i s) hbs
    exact .inl ⟨m, _, he, fun hc => chainBefore_of_not_chaining hc s bs s.cv _, ho, hw, hi⟩
  · exact .inr ⟨o, ho, h1, h2, h3⟩

/-- A key size field names a key size, or it is the illegal one (R92). -/
theorem keySize_ofBits?_cases (ks : BitVec 2) :
    (∃ k : KeySize, KeySize.ofBits? ks = some k ∧ ks = k.bits) ∨
    (KeySize.ofBits? ks = none ∧ keySizeLegal ks = false) := by
  have h : ks = 0#2 ∨ ks = 1#2 ∨ ks = 2#2 ∨ ks = 3#2 := by revert ks; decide
  rcases h with rfl | rfl | rfl | rfl
  · exact .inl ⟨.k128, rfl, rfl⟩
  · exact .inl ⟨.k192, rfl, rfl⟩
  · exact .inl ⟨.k256, rfl, rfl⟩
  · exact .inr ⟨rfl, rfl⟩

@[simp] theorem keySize_ofBits?_bits (k : KeySize) : KeySize.ofBits? k.bits = some k := by
  cases k <;> rfl

/-- Everything the effect of a legal command can do: a key load, a key and IV load, an IV load, a region with a new `CV`,
or the fault of R49. -/
theorem effectOf_cases {i : Instr} (hw : i.wellFormed = true) (s : State) :
    (∃ k, i = .initKey k.bits ∧ effectOf i s = .next (s.loadKey k)) ∨
    (∃ k, i = .initKeyIv k.bits ∧ effectOf i s = .next (s.loadKey k).loadIv) ∨
    (i = .setIv ∧ effectOf i s = .next s.loadIv) ∨
    (isData i = true ∧ ((∃ m c, effectOf i s = .next (s.setRegion m c) ∧ (isChaining i = false → c = s.cv) ∧
        RegionOnly s m) ∨
      (∃ o, effectOf i s = .fault (.unwrittenRead o) ∧ s.regionStart ≤ o ∧
        o < s.regionStart + 16 * s.blockCount ∧ s.bufByte? o = none))) := by
  cases i with
  | initKey ks =>
    rcases keySize_ofBits?_cases ks with ⟨k, h1, rfl⟩ | ⟨-, h2⟩
    · exact .inl ⟨k, rfl, by simp [effectOf]⟩
    · simp [Instr.wellFormed, h2] at hw
  | initKeyIv ks =>
    rcases keySize_ofBits?_cases ks with ⟨k, h1, rfl⟩ | ⟨-, h2⟩
    · exact .inr (.inl ⟨k, rfl, by simp [effectOf]⟩)
    · simp [Instr.wellFormed, h2] at hw
  | setIv => exact .inr (.inr (.inl ⟨rfl, rfl⟩))
  | _ => exact .inr (.inr (.inr ⟨rfl, effectOf_data_cases rfl s⟩))

end Sys2Proof.Machine
end

