-- ==== Sys2Proof/Laws/Step.lean ====
section
/-! SUPPORT. The address map read both ways (R61), and what a step can do, said once: the inversion of a step that answers
a next state. -/

namespace Sys2Proof.Machine

/-- The offsets of a register (R61), for a buffer of `b` bytes. -/
def Reg.liesAt (b off : Nat) : Reg → Prop
  | .config => off = 0x0000
  | .status => off = 0x0004
  | .intstat => off = 0x0008
  | .inten => off = 0x000C
  | .cmd => off = 0x0010
  | .addr => off = 0x0014
  | .len => off = 0x0018
  | .key n => off = 0x0020 + 4 * n
  | .ivin n => off = 0x0040 + 4 * n
  | .cv n => off = 0x0050 + 4 * n
  | .rk n => off = 0x0100 + 4 * n
  | .buf n => off = 0x1000 + 4 * n ∧ 4 * n < b
  | .reserved => off = 0x001C ∨ (0x0060 ≤ off ∧ off < 0x0100) ∨ (0x01F0 ≤ off ∧ off < 0x1000) ∨ 0x1000 + b ≤ off

/-- An aligned offset lies at the register the map gives it. -/
theorem regAt_liesAt (b off : Nat) (h : off % 4 = 0) : (regAt b off).liesAt b off := by
  have pick : ∀ {c : Prop} [Decidable c] {r r' : Reg}, (c → r.liesAt b off) → (¬c → r'.liesAt b off) →
      (if c then r else r').liesAt b off := by
    intro c _ r r' h1 h2
    by_cases hc : c
    · rw [if_pos hc]; exact h1 hc
    · rw [if_neg hc]; exact h2 hc
  have pickd : ∀ {c : Prop} [Decidable c] {r : c → Reg} {r' : Reg}, (∀ hc : c, (r hc).liesAt b off) →
      (¬c → r'.liesAt b off) → (if hc : c then r hc else r').liesAt b off := by
    intro c _ r r' h1 h2
    by_cases hc : c
    · rw [dif_pos hc]; exact h1 hc
    · rw [dif_neg hc]; exact h2 hc
  unfold regAt
  iterate 7 refine pick (fun hc => hc) fun _ => ?_
  refine pickd (fun hc => ?_) fun _ => pickd (fun hc => ?_) fun _ => pickd (fun hc => ?_) fun _ =>
    pickd (fun hc => ?_) fun _ => pick (fun hc => ?_) fun _ => ?_
  all_goals simp only [Reg.liesAt]; omega

/-- No offset lies at two registers. -/
theorem Reg.liesAt_unique {b off : Nat} {r r' : Reg} (h : r.liesAt b off) (h' : r'.liesAt b off) : r = r' := by
  cases r <;> cases r' <;> simp only [Reg.liesAt] at h h' <;>
    first | rfl | omega | (congr 1; omega)

/-- A register's offset is mapped to it. -/
theorem regAt_of_liesAt {b off : Nat} {r : Reg} (ha : off % 4 = 0) (h : r.liesAt b off) : regAt b off = r :=
  Reg.liesAt_unique (regAt_liesAt b off ha) h

/-- `INTSTAT` and `INTEN` are the two offsets whose writes the BUSY window lets through (R175). -/
theorem regAt_writableWhileBusy {b off : Nat} (ha : off % 4 = 0) :
    (regAt b off).writableWhileBusy = true ↔ off = 0x0008 ∨ off = 0x000C := by
  constructor
  · intro h
    have hl := regAt_liesAt b off ha
    cases hr : regAt b off <;> rw [hr] at h hl <;>
      first | exact .inl hl | exact .inr hl | exact absurd h (by simp [Reg.writableWhileBusy])
  · rintro (rfl | rfl) <;> rfl

/-- A word of the `BUF` window lies inside the buffer, whose size is a multiple of 4 (R6, R34, R61). -/
theorem regAt_buf {p : Params} {off n : Nat} (ha : off % 4 = 0) (h : regAt p.bufBytes off = .buf n) :
    off = 0x1000 + 4 * n ∧ 4 * n + 4 ≤ p.bufBytes := by
  have hl := regAt_liesAt p.bufBytes off ha
  have hp := params_bufBytes_mod p
  rw [h] at hl
  simp only [Reg.liesAt] at hl
  omega

/-- What a host write can do to a state. -/
inductive WritesTo (s : State) (off : BitVec 16) (v : Word) : State → Prop where
  | misaligned : off.toNat % 4 ≠ 0 → WritesTo s off v (s.respond (.write false))
  | dropped : off.toNat % 4 = 0 → s.busy = true → off ≠ 0x0008#16 → off ≠ 0x000C#16 →
      WritesTo s off v (s.dropWrite.respond (.write true))
  | intstat : off = 0x0008#16 → WritesTo s off v ((s.respond (.write true)).acknowledge v)
  | inten : off = 0x000C#16 → WritesTo s off v ((s.respond (.write true)).setInten v)
  | rejected (e : CmdError) : off = 0x0010#16 → s.busy = false →
      WritesTo s off v ((s.respond (.write true)).reject e)
  | accepted (i : Instr) : off = 0x0010#16 → s.busy = false → decode v = .ok i → checkCommand i s = none →
      WritesTo s off v ((s.respond (.write true)).accept i)
  | addr : off = 0x0014#16 → s.busy = false → WritesTo s off v ((s.respond (.write true)).setAddr v)
  | len : off = 0x0018#16 → s.busy = false → WritesTo s off v ((s.respond (.write true)).setLen v)
  | key (n : Fin 8) : off.toNat = 0x0020 + 4 * n → s.busy = false →
      WritesTo s off v ((s.respond (.write true)).setKey n v)
  | ivin (n : Fin 4) : off.toNat = 0x0040 + 4 * n → s.busy = false →
      WritesTo s off v ((s.respond (.write true)).setIvin n v)
  | buf (n : Nat) : off.toNat = 0x1000 + 4 * n → 4 * n < s.params.bufBytes → s.busy = false →
      WritesTo s off v ((s.respond (.write true)).setBufWord n v)
  | ignored : off.toNat % 4 = 0 → s.busy = false → WritesTo s off v (s.respond (.write true))

/-- A host write always answers a next state. -/
theorem hostWrite_writesTo (off : BitVec 16) (v : Word) (s : State) :
    ∃ t, hostWrite off v s = .next t ∧ WritesTo s off v t := by
  have lit : ∀ n : Nat, n < 2 ^ 16 → off.toNat = n → off = BitVec.ofNat 16 n := fun n hn h => by
    apply BitVec.eq_of_toNat_eq
    rw [h, BitVec.toNat_ofNat, Nat.mod_eq_of_lt hn]
  rcases hostWrite_cases off v s with ⟨h, he⟩ | ⟨h, hb, hw, he⟩ | ⟨h, hb, he⟩
  · exact ⟨_, he, .misaligned h⟩
  · refine ⟨_, he, .dropped h hb ?_ ?_⟩ <;> rintro rfl <;> simp [Reg.writableWhileBusy] at hw
  · have hl := regAt_liesAt s.params.bufBytes off.toNat h
    rw [he]
    cases hr : regAt s.params.bufBytes off.toNat with
    | intstat => rw [hr] at hl; exact ⟨_, rfl, .intstat (lit _ (by omega) hl)⟩
    | inten => rw [hr] at hl; exact ⟨_, rfl, .inten (lit _ (by omega) hl)⟩
    | cmd =>
      rw [hr] at hl hb
      have hb : s.busy = false := by simpa [Reg.writableWhileBusy] using hb
      have hc := lit _ (by omega) hl
      simp only [writeReg, submitWord]
      cases hd : decode v with
      | error e => exact ⟨_, rfl, .rejected e hc hb⟩
      | ok i =>
        refine ⟨_, exec_idle i (by simpa using hb), ?_⟩
        rcases submitCommand_cases i (s.respond (.write true)) with ⟨e, -, he⟩ | ⟨hn, he⟩
        · rw [he]; exact .rejected e hc hb
        · rw [he]; exact .accepted i hc hb hd hn
    | addr => rw [hr] at hl hb; exact ⟨_, rfl, .addr (lit _ (by omega) hl) (by simpa [Reg.writableWhileBusy] using hb)⟩
    | len => rw [hr] at hl hb; exact ⟨_, rfl, .len (lit _ (by omega) hl) (by simpa [Reg.writableWhileBusy] using hb)⟩
    | key n => rw [hr] at hl hb; exact ⟨_, rfl, .key n hl (by simpa [Reg.writableWhileBusy] using hb)⟩
    | ivin n => rw [hr] at hl hb; exact ⟨_, rfl, .ivin n hl (by simpa [Reg.writableWhileBusy] using hb)⟩
    | buf n => rw [hr] at hl hb; exact ⟨_, rfl, .buf n hl.1 hl.2 (by simpa [Reg.writableWhileBusy] using hb)⟩
    | _ => rw [hr] at hb; exact ⟨_, rfl, .ignored h (by simpa [Reg.writableWhileBusy] using hb)⟩

/-- What a step can do to a state: `s` is the state at its start, the last argument the next one. -/
inductive StepsTo (s : State) : State → Prop where
  | asserted (rest : List Event) : s.agenda = .assertReset :: rest → StepsTo s (s.withAgenda rest).assertReset
  | released (rest : List Event) : s.agenda = .releaseReset :: rest → StepsTo s (s.withAgenda rest).releaseReset
  | noResponse (e : Event) (rest : List Event) : s.agenda = e :: rest → s.rstN = false →
      StepsTo s (s.withAgenda rest).noResponse
  | passed (rest : List Event) : s.agenda = .engine :: rest → s.rstN = false ∨ s.busy = false →
      StepsTo s (s.withAgenda rest)
  | waits : s.agenda = [] → s.rstN = false ∨ s.busy = false → StepsTo s s
  | read (off : BitVec 16) (rest : List Event) (r : BusResponse) : s.agenda = .hostRead off :: rest → s.rstN = true →
      StepsTo s ((s.withAgenda rest).respond r)
  | written (off : BitVec 16) (v : Word) (rest : List Event) (t : State) : s.agenda = .hostWrite off v :: rest →
      s.rstN = true → WritesTo (s.withAgenda rest) off v t → StepsTo s t
  | completed (i : Instr) (rest : List Event) (u : State) : s.agenda = [] ∧ rest = [] ∨ s.agenda = .engine :: rest →
      s.rstN = true → s.busy = true → decodeFields s.lat.op s.lat.ks = .ok i →
      effectOf i (s.withAgenda rest) = .next u → StepsTo s u.finish

/-- Why a step can stop: a `BUF` read or a completion at a byte that holds no value, or a latch no run holds. -/
inductive StopsWith (s : State) : Fault → Prop where
  | read (off : BitVec 16) (rest : List Event) (n o : Nat) : s.agenda = .hostRead off :: rest → s.rstN = true →
      s.busy = false → off.toNat = 0x1000 + 4 * n → 4 * n ≤ o → o < 4 * n + 4 → s.bufByte? o = none →
      StopsWith s (.unwrittenRead o)
  | effect (i : Instr) (o : Nat) : s.busy = true → decodeFields s.lat.op s.lat.ks = .ok i → isData i = true →
      s.regionStart ≤ o → o < s.regionStart + 16 * s.blockCount → s.bufByte? o = none → StopsWith s (.unwrittenRead o)
  | latch : s.busy = true → decodeFields s.lat.op s.lat.ks = .error .illegalCmd ∨
      decodeFields s.lat.op s.lat.ks = .error .badKeySize → StopsWith s (.illegalLatch s.lat.op s.lat.ks)

/-- Everything a step can do: it is never refused. -/
theorem step_inv (s : State) :
    (∃ t, step s = .next t ∧ StepsTo s t) ∨ (∃ e, step s = .fault e ∧ StopsWith s e) := by
  have engine : ∀ rest, s.agenda = [] ∧ rest = [] ∨ s.agenda = .engine :: rest → s.rstN = true →
      step s = engineStep (s.withAgenda rest) →
      (∃ t, step s = .next t ∧ StepsTo s t) ∨ (∃ e, step s = .fault e ∧ StopsWith s e) := by
    intro rest ha hr hs
    rw [hs]
    rcases engineStep_cases (s.withAgenda rest) with ⟨hb, he⟩ | ⟨hb, ⟨i, hd, he⟩ | ⟨e, hd, he⟩⟩
    · rcases ha with ⟨ha, rfl⟩ | ha
      · refine .inl ⟨_, he, ?_⟩
        rw [show s.withAgenda [] = s from by rw [← ha]; rfl]
        exact .waits ha (.inr hb)
      · exact .inl ⟨_, he, .passed rest ha (.inr hb)⟩
    · have hw := ((decodeFields_ok_iff _ _ _).mp hd).1
      have hn : ∀ u, effectOf i (s.withAgenda rest) = .next u →
          (∃ t, engineStep (s.withAgenda rest) = .next t ∧ StepsTo s t) := fun u hu =>
        ⟨_, he.trans (exec_busy_next hb hu), .completed i rest u ha hr hb hd hu⟩
      rcases effectOf_cases hw (s.withAgenda rest) with ⟨k, -, h⟩ | ⟨k, -, h⟩ | ⟨-, h⟩ | ⟨hi, ⟨m, c, h, -⟩ | ⟨o, h, h1, h2, h3⟩⟩
      · exact .inl (hn _ h)
      · exact .inl (hn _ h)
      · exact .inl (hn _ h)
      · exact .inl (hn _ h)
      · exact .inr ⟨_, he.trans (exec_busy_fault hb h), .effect i o hb hd hi h1 h2 h3⟩
    · refine .inr ⟨_, he, .latch hb ?_⟩
      have hd : decodeFields s.lat.op s.lat.ks = .error e := hd
      rw [hd]
      unfold decodeFields at hd
      split at hd
      · cases hd; exact .inl rfl
      · split at hd <;> split at hd <;> cases hd
        · exact .inr rfl
        · exact .inl rfl
  rcases step_cases s with ⟨ha, hs⟩ | ⟨e, rest, ha, hs⟩
  · cases hr : s.rstN with
    | false => exact .inl ⟨s, by simp [hs, runEvent, hr], .waits ha (.inl hr)⟩
    | true =>
      refine engine [] (.inl ⟨ha, rfl⟩) hr ?_
      rw [show s.withAgenda [] = s from by rw [← ha]; rfl, hs, runEvent, hr]
      rfl
  · cases e with
    | assertReset => exact .inl ⟨_, hs, .asserted rest ha⟩
    | releaseReset => exact .inl ⟨_, hs, .released rest ha⟩
    | engine =>
      cases hr : s.rstN with
      | false => exact .inl ⟨s.withAgenda rest, by simp [hs, runEvent, hr], .passed rest ha (.inl hr)⟩
      | true => exact engine rest (.inr ha) hr (by simp [hs, runEvent, hr])
    | hostRead off =>
      cases hr : s.rstN with
      | false => exact .inl ⟨_, by simp only [hs, runEvent, State.withAgenda_rstN, hr]; rfl, .noResponse _ rest ha hr⟩
      | true =>
        have hs : step s = hostRead off (s.withAgenda rest) := by simp [hs, runEvent, hr]
        rw [hs]
        rcases hostRead_cases off (s.withAgenda rest) with ⟨h, he⟩ | ⟨h, ⟨w, -, he⟩ | ⟨e, hre, he⟩⟩
        · exact .inl ⟨_, he, .read off rest _ ha hr⟩
        · exact .inl ⟨_, he, .read off rest _ ha hr⟩
        · obtain ⟨hb, n, o, hn, rfl, h1, h2, h3⟩ := readReg_error hre
          refine .inr ⟨_, he, .read off rest n o ha hr hb ?_ h1 h2 h3⟩
          have := regAt_liesAt (s.withAgenda rest).params.bufBytes off.toNat h
          rw [hn] at this
          exact this.1
    | hostWrite off v =>
      cases hr : s.rstN with
      | false => exact .inl ⟨_, by simp only [hs, runEvent, State.withAgenda_rstN, hr]; rfl, .noResponse _ rest ha hr⟩
      | true =>
        obtain ⟨t, he, hw⟩ := hostWrite_writesTo off v (s.withAgenda rest)
        exact .inl ⟨t, by simp [hs, runEvent, hr, he], .written off v rest t ha hr hw⟩

/-- The inversion of a step that answers a next state. -/
theorem stepsTo_of_step {s t : State} (h : step s = .next t) : StepsTo s t := by
  rcases step_inv s with ⟨u, hu, hs⟩ | ⟨e, he, -⟩
  · rw [hu] at h; cases h; exact hs
  · rw [he] at h; cases h

/-- A run of one step more is the rest of the run after it. -/
theorem run_succ_of_step {s t : State} (k : Nat) (h : step s = .next t) :
    Host.Core.run Sys2Proof.core (k + 1) s = Host.Core.run Sys2Proof.core k t := by
  have run_succ : ∀ (M : Host.Core) (a b : M.State), M.step a = .next b → M.run (k + 1) a = M.run k b := by
    intro M a b hab
    simp only [Host.Core.run, hab]
  exact run_succ Sys2Proof.core s t h

end Sys2Proof.Machine
end

