-- ==== Sys2Proof/Laws/Engine.lean ====
section
/-! SUPPORT. No operation reads the events to come or the last response (R46): each does the same to two states that differ
in them, and leaves the events to come as they are. -/

namespace Sys2Proof.Machine

/-- A state with other events to come and another last response. -/
def State.beside (s : State) (a : List Event) (r : Option BusResponse) : State := { s with agenda := a, resp := r }

@[simp] theorem State.beside_toEngine (s : State) (a : List Event) (r : Option BusResponse) :
    (s.beside a r).toEngine = s.toEngine := rfl
@[simp] theorem State.beside_params (s : State) (a : List Event) (r : Option BusResponse) :
    (s.beside a r).params = s.params := rfl
@[simp] theorem State.beside_agenda (s : State) (a : List Event) (r : Option BusResponse) :
    (s.beside a r).agenda = a := rfl
@[simp] theorem State.beside_resp (s : State) (a : List Event) (r : Option BusResponse) :
    (s.beside a r).resp = r := rfl
@[simp] theorem State.withAgenda_toEngine (s : State) (rest : List Event) :
    (s.withAgenda rest).toEngine = s.toEngine := rfl
@[simp] theorem State.respond_toEngine (s : State) (r : BusResponse) : (s.respond r).toEngine = s.toEngine := rfl
@[simp] theorem State.noResponse_toEngine (s : State) : s.noResponse.toEngine = s.toEngine := rfl
@[simp] theorem State.assertReset_toEngine (s : State) :
    s.assertReset.toEngine = { Engine.initial with rstN := false } := rfl
@[simp] theorem Engine.under_toEngine (x : Engine) (p : Params) : (x.under p).toEngine = x := rfl
@[simp] theorem Engine.under_params (x : Engine) (p : Params) : (x.under p).params = p := rfl

/-- A state is its engine in its instance, with its events to come and its last response beside it. -/
theorem State.eq_under_beside (s : State) : s = (s.toEngine.under s.params).beside s.agenda s.resp := rfl

/-- A function of the next state applied to an outcome. -/
def mapNext (f : State → State) (o : Host.Outcome State Fault Refusal) : Host.Outcome State Fault Refusal :=
  match o with
  | .next t => .next (f t)
  | .fault e => .fault e
  | .refused r => .refused r

theorem submitCommand_beside (i : Instr) (s : State) (a : List Event) (r : Option BusResponse) :
    submitCommand i (s.beside a r) = (submitCommand i s).beside a r := by
  have h : checkCommand i (s.beside a r) = checkCommand i s := rfl
  unfold submitCommand
  rw [h]
  cases checkCommand i s <;> rfl

theorem dataEffect_beside (f : BlockStep) (s : State) (a : List Event) (r : Option BusResponse) :
    dataEffect f (s.beside a r) = mapNext (·.beside a r) (dataEffect f s) := by
  have h : blockLoop (s.beside a r).params.bufBytes f (s.beside a r).blockCount (s.beside a r).regionStart
      (s.beside a r).cv (s.beside a r).buf =
    blockLoop s.params.bufBytes f s.blockCount s.regionStart s.cv s.buf := rfl
  unfold dataEffect
  rw [h]
  cases blockLoop s.params.bufBytes f s.blockCount s.regionStart s.cv s.buf <;> rfl

theorem effectOf_beside (i : Instr) (s : State) (a : List Event) (r : Option BusResponse) :
    effectOf i (s.beside a r) = mapNext (·.beside a r) (effectOf i s) := by
  cases i with
  | initKey ks => simp only [effectOf]; cases KeySize.ofBits? ks <;> rfl
  | initKeyIv ks => simp only [effectOf]; cases KeySize.ofBits? ks <;> rfl
  | setIv => rfl
  | _ => exact dataEffect_beside _ s a r

/-- A command reads neither the events to come nor the last response, and changes neither. -/
theorem exec_beside (i : Instr) (s : State) (a : List Event) (r : Option BusResponse) :
    exec i (s.beside a r) = mapNext (·.beside a r) (exec i s) := by
  have hb : (s.beside a r).busy = s.busy := rfl
  rw [exec_eq_lifecycle, exec_eq_lifecycle]
  unfold lifecycle
  rw [effectOf_beside, submitCommand_beside, hb]
  cases s.busy
  · rfl
  · cases effectOf i s <;> rfl

end Sys2Proof.Machine
end

