-- ==== Sys2Proof/Laws/PerInstr.lean ====
section
/-! SUPPORT. The family TableRow: the word of every command, whatever its fields hold, belongs to exactly one row of the
opcode table, its own, and carries the field values of that row (R90, R91, R93). -/

namespace Sys2Proof.Laws

/-- The mnemonic of a command (R91). -/
def mnemonic : Instr → String
  | .initKey _ => "INIT_KEY"
  | .initKeyIv _ => "INIT_KEY_IV"
  | .setIv => "SET_IV"
  | .ecbEnc => "ECB_ENC"
  | .ecbDec => "ECB_DEC"
  | .cbcEnc => "CBC_ENC"
  | .cbcDec => "CBC_DEC"
  | .ctrXcrypt => "CTR_XCRYPT"

/-- The mnemonics of the rows a word belongs to. -/
def rowsOf (w : Word) : List String := (opcodeTable.filter (·.matches w)).map OpcodeRow.mnemonic

/-- The command's word belongs to its own row only, and its three fields are the command's. -/
def TableRow.Statement (i : Instr) : Prop :=
  rowsOf (encode i) = [mnemonic i] ∧ opField (encode i) = i.opcode ∧ ksField (encode i) = i.ksBits ∧
    rsvField (encode i) = 0#26

theorem TableRow.initKey (ks : BitVec 2) : TableRow.Statement (.initKey ks) := by
  revert ks; unfold TableRow.Statement; decide

theorem TableRow.initKeyIv (ks : BitVec 2) : TableRow.Statement (.initKeyIv ks) := by
  revert ks; unfold TableRow.Statement; decide

theorem TableRow.setIv : TableRow.Statement .setIv := by unfold TableRow.Statement; decide

theorem TableRow.ecbEnc : TableRow.Statement .ecbEnc := by unfold TableRow.Statement; decide

theorem TableRow.ecbDec : TableRow.Statement .ecbDec := by unfold TableRow.Statement; decide

theorem TableRow.cbcEnc : TableRow.Statement .cbcEnc := by unfold TableRow.Statement; decide

theorem TableRow.cbcDec : TableRow.Statement .cbcDec := by unfold TableRow.Statement; decide

theorem TableRow.ctrXcrypt : TableRow.Statement .ctrXcrypt := by unfold TableRow.Statement; decide

/-- No word belongs to two rows of the table: two different rows differ at a bit both of them fix. -/
theorem opcodeTable_rows_disjoint :
    opcodeTable.Pairwise fun r r' => (r.bits ^^^ r'.bits) &&& r.mask &&& r'.mask ≠ 0#32 := by
  decide

end Sys2Proof.Laws
end

