-- ==== Sys2Proof/Machine/Program.lean ====
section
/-! DEFINITION. The notation of host programs (R100, R101) as lists of events. -/

namespace Sys2Proof.Machine

/-- `W NAME, v` (R100). -/
def writeTo (r : Reg) (v : Word) : Event := .hostWrite r.offset v

/-- `R NAME` (R100). -/
def readFrom (r : Reg) : Event := .hostRead r.offset

/-- `W CMD, m` (R100). -/
def command (i : Instr) : Event := .hostWrite Reg.cmd.offset (encode i)

/-- The host words of a byte sequence whose length is a multiple of 4, packed by lanes (R62). -/
def laneWords : List Byte → List Word
  | a :: b :: c :: d :: rest => laneWord ⟨a, b, c, d⟩ :: laneWords rest
  | _ => []

/-- One write for each word, at consecutive word offsets from `base` on. -/
def writeWords (base : Nat) : List Word → List Event
  | [] => []
  | w :: rest => .hostWrite (BitVec.ofNat 16 base) w :: writeWords (base + 4) rest

/-- `LOADKEY h` (R101). -/
def loadKeyProgram (h : List Byte) : List Event := writeWords 0x0020 (laneWords h)

/-- `LOADIV h` (R101). -/
def loadIvProgram (h : List Byte) : List Event := writeWords 0x0040 (laneWords h)

/-- `LOADBUF o, h` (R101). -/
def loadBufProgram (o : Nat) (h : List Byte) : List Event := writeWords (0x1000 + o) (laneWords h)

/-- `WAIT` (R101): reads of `STATUS`, the completion step somewhere inside, and a last read that sees `BUSY = 0`. The
numbers of reads are not fixed by the spec, so they are arguments. -/
def waitProgram (before after : Nat) : List Event :=
  List.replicate before (readFrom .status) ++ .engine :: List.replicate (after + 1) (readFrom .status)

/-- `RUN m, a, l` (R101). -/
def runProgram (i : Instr) (a l : Word) (before after : Nat) : List Event :=
  writeTo .addr a :: writeTo .len l :: command i :: waitProgram before after

end Sys2Proof.Machine
end

