-- ==== Sys2Proof/Tests/Slice0.lean ====
section
/-! SUPPORT. The tests: expected values are the vectors of spec/95_test_vectors.md or written out from the encoding
tables of spec/30_encoding.md. Then one witness for the hypotheses of each obligation, clause by clause. -/

namespace Sys2Proof.Tests

open Sys2Proof.Machine

-- One proof at a time: many at once ask for a stack each, and together for too much memory.
set_option Elab.async false

/-! Helpers -/

/-- The bytes of a hex string of the given length, byte 0 first. -/
def hex (len n : Nat) : List Byte := (List.range len).map fun k => BitVec.ofNat 8 (n / 256 ^ (len - 1 - k))

/-- A block written as a hex string. -/
def blk (n : Nat) : Block := Block.ofBytes (hex 16 n)

/-- The words of a key written as a hex string. -/
def keyWordsOf (k : KeySize) (n : Nat) : List Quad := (List.range k.nk).map fun i => Quad.ofBytes ((hex (4 * k.nk) n).drop (4 * i))

/-- The round keys of a key. -/
def rkOf (p : Params) (k : KeySize) (n : Nat) : Vector Quad 60 := roundKeyStore (keyExpansion p k (keyWordsOf k n))

/-- A field of the next state; none for a fault or a refusal. -/
def after {α : Type} (o : Host.Outcome State Fault Refusal) (f : State → α) : Option α :=
  match o with
  | .next t => some (f t)
  | .fault _ => none
  | .refused _ => none

/-- The fault of a step; none otherwise. -/
def faultOf (o : Host.Outcome State Fault Refusal) : Option Fault :=
  match o with
  | .next _ => none
  | .fault e => some e
  | .refused _ => none

/-- What the decoder answers, as a comparable value. -/
def decoded (w : Word) : Option Instr × Option CmdError :=
  match decode w with
  | .ok i => (some i, none)
  | .error e => (none, some e)

/-- The key of KS128-1. -/
def key1 : Nat := 0x2b7e151628aed2a6abf7158809cf4f3c

/-- The default instance with that key loaded and an IV, `BUF` starting with the given bytes. -/
def ready (cv : Nat) (bytes : List Byte) : State :=
  { State.reset with keyValid := true, ivValid := true, cv := blk cv, buf := memWrite [] 0 bytes,
                     rk := rkOf Params.default .k128 key1 }

/-- The same inside the BUSY window of a command. -/
def running (i : Instr) (len : Word) (cv : Nat) (bytes : List Byte) : State :=
  { ready cv bytes with busy := true, lat := ⟨i.opcode, i.ksBits, 0#32, len⟩, len := len }

/-- A state about to take one event. -/
def facing (s : State) (e : Event) : State := { s with agenda := [e] }

/-! Ill-formed commands -/

theorem test_initKey_ill_formed : (Instr.initKey 0b11#2).wellFormed = false := by decide
theorem test_initKeyIv_ill_formed : (Instr.initKeyIv 0b11#2).wellFormed = false := by decide
theorem test_keySizeLegal : keySizeLegal 0b00#2 = true ∧ keySizeLegal 0b01#2 = true ∧ keySizeLegal 0b10#2 = true ∧
    keySizeLegal 0b11#2 = false := by decide

/-! Decoding: every command's word, bit by bit (R90, R91), and the error words of 95_test_vectors.md -/

theorem test_decode_initKey :
    decoded 0b00000000000000000000000000000001#32 = (some (.initKey 0b00#2), none) ∧
    decoded 0b00000000000000000000000000010001#32 = (some (.initKey 0b01#2), none) ∧
    decoded 0b00000000000000000000000000100001#32 = (some (.initKey 0b10#2), none) ∧
    decoded 0b00000000000000000000000000110001#32 = (none, some .badKeySize) := by decide
theorem test_decode_initKeyIv :
    decoded 0b00000000000000000000000000000010#32 = (some (.initKeyIv 0b00#2), none) ∧
    decoded 0b00000000000000000000000000010010#32 = (some (.initKeyIv 0b01#2), none) ∧
    decoded 0b00000000000000000000000000100010#32 = (some (.initKeyIv 0b10#2), none) ∧
    decoded 0b00000000000000000000000000110010#32 = (none, some .badKeySize) := by decide
theorem test_decode_setIv : decoded 0b00000000000000000000000000000011#32 = (some .setIv, none) := by decide
theorem test_decode_ecbEnc : decoded 0b00000000000000000000000000000100#32 = (some .ecbEnc, none) := by decide
theorem test_decode_ecbDec : decoded 0b00000000000000000000000000000101#32 = (some .ecbDec, none) := by decide
theorem test_decode_cbcEnc : decoded 0b00000000000000000000000000000110#32 = (some .cbcEnc, none) := by decide
theorem test_decode_cbcDec : decoded 0b00000000000000000000000000000111#32 = (some .cbcDec, none) := by decide
theorem test_decode_ctrXcrypt : decoded 0b00000000000000000000000000001000#32 = (some .ctrXcrypt, none) := by decide
theorem test_decode_illegal :
    [0x00000000#32, 0x00000013#32, 0x00000033#32, 0x00000014#32, 0x00000009#32, 0x0000000f#32, 0x00000040#32,
      0x00000041#32, 0x00000071#32, 0x80000004#32, 0xffffffff#32].map decoded =
    List.replicate 11 (none, some .illegalCmd) := by decide +kernel
theorem test_table_word : decodeTableWord 32 0x11 = some (.initKey 0b01#2) ∧ decodeTableWord 32 0x31 = none := by decide

/-! Tables, field arithmetic, primitives -/

theorem test_sbox_corners : stdSbox.look 0x00#8 = 0x63#8 ∧ stdSbox.look 0x01#8 = 0x7c#8 ∧ stdSbox.look 0x53#8 = 0xed#8 ∧
    stdSbox.look 0xff#8 = 0x16#8 ∧ stdIsbox.look 0x63#8 = 0x00#8 ∧ stdIsbox.look 0x00#8 = 0x52#8 := by decide
theorem test_rcon : ∀ i < 10, double (rcon.getD i 0#8) = rcon.getD (i + 1) 0#8 := by decide
theorem test_double : double 0x57#8 = 0xae#8 ∧ double 0x8e#8 = 0x07#8 ∧ double 0x80#8 = 0x1b#8 ∧
    double 0xff#8 = 0xe5#8 := by decide
theorem test_mul : mul 0x57#8 0x13#8 = 0xfe#8 ∧ mul 0x57#8 0x0e#8 = 0x67#8 ∧ mul 0xff#8 0x0b#8 = 0xa3#8 ∧
    mul 0x80#8 0x0d#8 = 0xda#8 ∧ mul 0x1b#8 0x09#8 = 0xc3#8 ∧ mul 0x5d#8 0x01#8 = 0x5d#8 := by decide
theorem test_subBytes : subBytes Params.default (blk 0xf0f1f2f3f4f5f6f7f8f9fafbfcfdfeff) =
    blk 0x8ca1890dbfe6426841992d0fb054bb16 := by decide +kernel
theorem test_shiftRows : shiftRows (blk 0x000102030405060708090a0b0c0d0e0f) =
    blk 0x00050a0f04090e03080d02070c01060b := by decide +kernel
theorem test_invShiftRows : invShiftRows (blk 0x000102030405060708090a0b0c0d0e0f) =
    blk 0x000d0a0704010e0b0805020f0c090603 := by decide +kernel
theorem test_mixColumns : mixColumns (blk 0x000102030405060708090a0b0c0d0e0f) =
    blk 0x02070005060304010a0f080d0e0b0c09 := by decide +kernel
theorem test_invMixColumn : invMixColumn (Quad.ofBytes (hex 4 0x8e4da1bc)) = Quad.ofBytes (hex 4 0xdb135345) := by
  decide +kernel
theorem test_inc128 : inc128 (blk 0xffffffffffffffffffffffffffffffff) = blk 0 ∧
    inc128 (blk 0x00ffffffffffffffffffffffffffffff) = blk 0x01000000000000000000000000000000 ∧
    inc128 (blk 0xf0f1f2f3f4f5f6f7f8f9fafbfcfdfeff) = blk 0xf0f1f2f3f4f5f6f7f8f9fafbfcfdff00 := by decide +kernel

/-! Key schedule and cipher -/

theorem test_last_round_key_128 : roundKey (rkOf Params.default .k128 key1) 10 =
    blk 0xd014f9a8c9ee2589e13f0cc8b6630ca6 := by decide +kernel
theorem test_last_round_key_192 :
    roundKey (rkOf Params.default .k192 0x8e73b0f7da0e6452c810f32b809079e562f8ead2522c6b7b) 12 =
      blk 0xe98ba06f448c773c8ecc720401002202 := by decide +kernel
theorem test_last_round_key_256 :
    roundKey (rkOf Params.default .k256 0x603deb1015ca71be2b73aef0857d77811f352c073b6108d72d9810a30914dff4) 14 =
      blk 0xfe4890d1e6188d0b046df344706c631e := by decide +kernel
theorem test_cipher_192 :
    cipherBlock Params.default (rkOf Params.default .k192 0x000102030405060708090a0b0c0d0e0f1011121314151617) 12
      (blk 0x00112233445566778899aabbccddeeff) = blk 0xdda97ca4864cdfe06eaf70a0ec0d7191 := by decide +kernel
theorem test_invCipher_256 :
    invCipherBlock Params.default
      (rkOf Params.default .k256 0x000102030405060708090a0b0c0d0e0f101112131415161718191a1b1c1d1e1f) 14
      (blk 0x8ea2b7ca516745bfeafc49904b496089) = blk 0x00112233445566778899aabbccddeeff := by decide +kernel

/-! Instances: INST-ALT-ID and INST-EXP-INV -/

/-- The identity table. -/
def idTable : Table := Vector.ofFn fun r => Vector.ofFn fun c => BitVec.ofNat 8 (16 * r.val + c.val)

theorem idTable_perm : idTable.isPerm = true := by decide +kernel
theorem stdIsbox_perm : stdIsbox.isPerm = true := by decide +kernel

/-- INST-ALT-ID, with the smallest buffer. -/
def instAltId : Params := ⟨.standard, .altSub ⟨idTable, idTable_perm⟩, 16, rfl⟩

/-- INST-EXP-INV, with the largest buffer. -/
def instExpInv : Params := ⟨.experimental ⟨stdIsbox, stdIsbox_perm⟩, .mds, 61440, rfl⟩

theorem test_instance_alt_id :
    cipherBlock instAltId (rkOf instAltId .k128 key1) 10 (blk 0x6bc1bee22e409f96e93d7e117393172a) =
      blk 0x3dd1027e959f483d96d5b41ebd03c36b := by decide +kernel
theorem test_instance_exp_inv :
    cipherBlock instExpInv (rkOf instExpInv .k128 key1) 10 (blk 0x6bc1bee22e409f96e93d7e117393172a) =
      blk 0xa6280135e9a6ff5235b74292f2a87eb3 := by decide +kernel
theorem test_instance_inverse_table : instExpInv.isboxFn 0x00#8 = 0x63#8 ∧ instExpInv.isboxFn 0xff#8 = 0x16#8 := by
  decide +kernel
theorem test_config : configWord Params.default = 0x01000000#32 ∧ configWord instExpInv = 0x0f000001#32 ∧
    configWord instAltId = 0x00010002#32 := by decide

/-! Commands: one completion each (KAT-1, CBC-ENC-4, CTR-WRAP and so on), one block or two -/

/-- The first two blocks of the message `M`. -/
def m2 : List Byte := hex 32 0x6bc1bee22e409f96e93d7e117393172aae2d8a571e03ac9c9eb76fac45af8e51

theorem test_initKey :
    after (exec (.initKey 0b00#2)
      { State.reset with busy := true, key := #v[0x16157e2b#32, 0xa6d2ae28#32, 0x8815f7ab#32, 0x3c4fcf09#32, 0, 0, 0, 0] })
      (fun t => (laneWord t.rk[40], laneWord t.rk[44], t.statusWord, t.intstat)) =
    some (0xa8f914d0#32, 0x00000000#32, 0x00000002#32, 0b001#3) := by decide +kernel
theorem test_initKeyIv :
    after (exec (.initKeyIv 0b10#2) { State.reset with busy := true, ivin := #v[0x03020100#32, 0, 0, 0x0f0e0d0c#32] })
      (fun t => (t.cv, t.statusWord, roundKey t.rk 14)) =
    some (blk 0x0001020300000000000000000c0d0e0f, 0x00000206#32, blk 0x10f80a1753bf729c45c979e7cb706385) := by
  decide +kernel
theorem test_setIv :
    after (exec .setIv { State.reset with busy := true, ivin := #v[0x03020100#32, 0x07060504#32, 0x0b0a0908#32, 0x0f0e0d0c#32] })
      (fun t => (t.cv, t.statusWord)) = some (blk 0x000102030405060708090a0b0c0d0e0f, 0x00000004#32) := by decide +kernel
theorem test_ecbEnc : after (exec .ecbEnc (running .ecbEnc 0x10#32 0 m2)) (fun t => (t.blockAt? 0, t.blockAt? 16)) =
    some (some (blk 0x3ad77bb40d7a3660a89ecaf32466ef97), some (blk 0xae2d8a571e03ac9c9eb76fac45af8e51)) := by
  decide +kernel
theorem test_ecbDec :
    after (exec .ecbDec (running .ecbDec 0x10#32 0 (hex 16 0x3ad77bb40d7a3660a89ecaf32466ef97)))
      (fun t => (t.blockAt? 0, t.cv)) = some (some (blk 0x6bc1bee22e409f96e93d7e117393172a), blk 0) := by decide +kernel
theorem test_cbcEnc :
    after (exec .cbcEnc (running .cbcEnc 0x20#32 0x000102030405060708090a0b0c0d0e0f m2))
      (fun t => (t.blockAt? 0, t.blockAt? 16, t.cv)) =
    some (some (blk 0x7649abac8119b246cee98e9b12e9197d), some (blk 0x5086cb9b507219ee95db113a917678b2),
      blk 0x5086cb9b507219ee95db113a917678b2) := by decide +kernel
theorem test_cbcDec :
    after (exec .cbcDec (running .cbcDec 0x20#32 0x000102030405060708090a0b0c0d0e0f
        (hex 32 0x7649abac8119b246cee98e9b12e9197d5086cb9b507219ee95db113a917678b2)))
      (fun t => (t.blockAt? 0, t.blockAt? 16, t.cv)) =
    some (some (blk 0x6bc1bee22e409f96e93d7e117393172a), some (blk 0xae2d8a571e03ac9c9eb76fac45af8e51),
      blk 0x5086cb9b507219ee95db113a917678b2) := by decide +kernel
theorem test_ctrXcrypt_wraps :
    after (exec .ctrXcrypt (running .ctrXcrypt 0x20#32 0xffffffffffffffffffffffffffffffff (hex 32 0)))
      (fun t => (t.blockAt? 0, t.blockAt? 16, t.cv)) =
    some (some (blk 0x8af2860142f786f409307c1a3f7eaaac), some (blk 0x7df76b0c1ab899b33e42f047b91b546f), blk 1) := by
  decide +kernel

/-! Acceptance and rejection: ERR-1 to ERR-16, as (key valid, IV valid, ADDR, LEN, word, STATUS, INTSTAT) -/

/-- `STATUS` and `INTSTAT` after the `CMD` write of a word. -/
def checkVector (kv iv : Bool) (a l w : Word) : Option (Word × BitVec 3) :=
  after (step (facing { State.reset with keyValid := kv, ivValid := iv, addr := a, len := l } (.hostWrite 0x0010#16 w)))
    fun t => (t.statusWord, t.intstat)

theorem test_rejections :
    checkVector false false 0x0#32 0x10#32 0x04#32 = some (0x00000038#32, 3#3) ∧
    checkVector true false 0x0#32 0x10#32 0x06#32 = some (0x0000004a#32, 3#3) ∧
    checkVector true false 0x0#32 0x10#32 0x08#32 = some (0x0000004a#32, 3#3) ∧
    checkVector false false 0x0#32 0x11#32 0x06#32 = some (0x00000038#32, 3#3) ∧
    checkVector true true 0x8#32 0x10#32 0x07#32 = some (0x0000005e#32, 3#3) ∧
    checkVector true true 0x0#32 0x18#32 0x06#32 = some (0x0000005e#32, 3#3) ∧
    checkVector true true 0xff0#32 0x20#32 0x08#32 = some (0x0000006e#32, 3#3) ∧
    checkVector true true 0x1000#32 0x10#32 0x04#32 = some (0x0000006e#32, 3#3) ∧
    checkVector true true 0xfffffff0#32 0x20#32 0x04#32 = some (0x0000006e#32, 3#3) ∧
    checkVector false false 0x8#32 0x8#32 0x31#32 = some (0x00000028#32, 3#3) ∧
    checkVector false false 0x8#32 0x8#32 0x09#32 = some (0x00000018#32, 3#3) := by decide +kernel
theorem test_acceptances :
    checkVector false false 0x8#32 0x8#32 0x01#32 = some (0x00000001#32, 0#3) ∧
    checkVector false false 0x8#32 0x8#32 0x03#32 = some (0x00000001#32, 0#3) ∧
    checkVector true true 0x0#32 0x1000#32 0x06#32 = some (0x00000007#32, 0#3) ∧
    checkVector true false 0x0#32 0x10#32 0x04#32 = some (0x00000003#32, 0#3) ∧
    checkVector true true 0x1000#32 0x0#32 0x04#32 = some (0x00000007#32, 0#3) := by decide +kernel

/-! The port -/

/-- The response to one event. -/
def answer (s : State) (e : Event) : Option (Option BusResponse) := after (step (facing s e)) State.resp

theorem test_lanes :
    answer (ready 1 []) (.hostRead 0x005C#16) = some (some (.read true 0x01000000#32)) ∧
    answer (ready 0xf0f1f2f3f4f5f6f7f8f9fafbfcfdfeff []) (.hostRead 0x0050#16) = some (some (.read true 0xf3f2f1f0#32)) ∧
    answer (ready 0 m2) (.hostRead 0x1004#16) = some (some (.read true 0x969f402e#32)) ∧
    answer (ready 0 m2) (.hostRead 0x01A0#16) = some (some (.read true 0xa8f914d0#32)) := by decide +kernel
theorem test_buf_write :
    after (step (facing State.reset (.hostWrite 0x1FFC#16 0xe2bec16b#32))) (·.buf) =
      some [(0xffc, 0x6b#8), (0xffd, 0xc1#8), (0xffe, 0xbe#8), (0xfff, 0xe2#8)] := by decide +kernel
theorem test_unwritten_read : faultOf (step (facing (ready 0 m2) (.hostRead 0x1020#16))) = some (.unwrittenRead 0x20) := by
  decide +kernel
theorem test_misaligned :
    answer State.reset (.hostRead 0x0002#16) = some (some (.read false 0#32)) ∧
    answer State.reset (.hostWrite 0x1001#16 5#32) = some (some (.write false)) := by decide +kernel
theorem test_busy_write_dropped :
    after (step (facing (running .setIv 0#32 0 m2) (.hostWrite 0x0014#16 8#32))) (fun t => (t.addr, t.intstat)) =
      some (0#32, 0b100#3) := by decide +kernel
theorem test_busy_read_hidden : answer (running .setIv 0#32 0 m2) (.hostRead 0x1000#16) = some (some (.read true 0#32)) := by
  decide +kernel
theorem test_fetch_word :
    after (step (State.reset.withFetchWord 32 0x03)) (fun t => (t.busy, t.lat.op)) = some (true, 0x3#4) := by decide +kernel
theorem test_reset_edge :
    after (step (facing (running .cbcEnc 0x20#32 7 m2) .assertReset)) (fun t => (t.statusWord, t.cv, t.buf, t.rstN)) =
      some (0#32, blk 0, [], false) := by decide +kernel

/-- The first lines of program P1 as transactions. -/
theorem test_program_notation :
    loadKeyProgram (hex 16 key1) = [.hostWrite 0x0020#16 0x16157e2b#32, .hostWrite 0x0024#16 0xa6d2ae28#32,
      .hostWrite 0x0028#16 0x8815f7ab#32, .hostWrite 0x002C#16 0x3c4fcf09#32] ∧
    command (.initKeyIv 0b01#2) = .hostWrite 0x0010#16 0x00000012#32 := by decide +kernel

/-! ## Witnesses: for each obligation with hypotheses, states and operands that meet them, clause by clause -/

theorem after_some {α : Type} {o : Host.Outcome State Fault Refusal} {f : State → α} {x : α} (h : after o f = some x) :
    ∃ t, o = .next t ∧ f t = x := by
  cases o with
  | next t => exact ⟨t, rfl, by simpa [after] using h⟩
  | fault e => simp [after] at h
  | refused r => simp [after] at h

theorem readable_of_all {s : State} {a n : Nat} (h : (List.range n).all (fun k => (s.bufByte? (a + k)).isSome) = true) :
    s.readable a n := by
  intro o h1 h2
  have := List.all_eq_true.mp h (o - a) (List.mem_range.mpr (by omega))
  rwa [show a + (o - a) = o by omega] at this

/-- The smallest buffer, full, inside the BUSY window of a command over all of it. -/
def full (i : Instr) : State :=
  { State.initial instAltId with
      busy := true, keyValid := true, ivValid := true, len := 0x10#32, lat := ⟨i.opcode, i.ksBits, 0#32, 0x10#32⟩,
      buf := memWrite [] 0 (hex 16 0x6bc1bee22e409f96e93d7e117393172a) }

theorem full_readable (i : Instr) : (full i).readable 0 16 :=
  have h : ((List.range 16).all fun k =>
    (byteAt? 16 (memWrite [] 0 (hex 16 0x6bc1bee22e409f96e93d7e117393172a)) (0 + k)).isSome) = true := by decide +kernel
  readable_of_all h

/-- Two full blocks at the start of the default buffer, inside the BUSY window of a command over them. -/
theorem running_readable (i : Instr) : (running i 0x20#32 0 m2).readable 0 32 :=
  have h : ((List.range 32).all fun k => (byteAt? 4096 (memWrite [] 0 m2) (0 + k)).isSome) = true := by decide +kernel
  readable_of_all h

theorem witness_StepRunsTheDecodedCommand :
    (let s := facing (ready 0 m2) (.hostWrite 0x0010#16 0x00000008#32)
     s.rstN = true ∧ s.busy = false ∧ decode 0x00000008#32 = .ok .ctrXcrypt) ∧
    (let s := facing (running .cbcDec 0x20#32 0 m2) .engine
     s.rstN = true ∧ s.busy = true ∧ decodeFields s.lat.op s.lat.ks = .ok .cbcDec) ∧
    (let s := running (.initKey 0b10#2) 0x20#32 0 m2
     s.agenda = [] ∧ s.rstN = true ∧ s.busy = true ∧ decodeFields s.lat.op s.lat.ks = .ok (.initKey 0b10#2)) ∧
    (decode (BitVec.ofNat 32 0x21) = .ok (.initKey 0b10#2) ∧ 0x21 < 2 ^ 32) :=
  ⟨⟨rfl, rfl, rfl⟩, ⟨rfl, rfl, rfl⟩, ⟨rfl, rfl, rfl, rfl⟩, ⟨rfl, by decide⟩⟩

theorem witness_CmdWriteChecksInOrder :
    (facing (ready 0 m2) (.hostWrite 0x0010#16 0x00000031#32)).agenda = .hostWrite 0x0010#16 0x00000031#32 :: [] ∧
    (ready 0 m2).rstN = true ∧ (ready 0 m2).busy = false := ⟨rfl, rfl, rfl⟩

/-- The whole buffer, and no region at all for a key load. -/
theorem witness_CheckedCommandIsAccepted :
    (let s : State := { State.reset with keyValid := true, ivValid := true, len := 0x1000#32 }
     s.busy = false ∧ Instr.cbcEnc.wellFormed = true ∧ s.keyValid = true ∧ s.ivValid = true ∧
       s.addr.toNat % 16 = 0 ∧ s.len.toNat % 16 = 0 ∧ s.addr.toNat + s.len.toNat ≤ s.params.bufBytes) ∧
    (State.reset.busy = false ∧ (Instr.initKey 0b10#2).wellFormed = true) := by decide

theorem witness_KeyExpansionFollowsTheRecurrence :
    (keyWordsOf .k128 0).length = 4 ∧ (keyWordsOf .k192 0).length = 6 ∧ (keyWordsOf .k256 0).length = 8 := by decide

theorem witness_key_and_iv_loads : (running (.initKey 0b00#2) 0#32 0 []).busy = true ∧ (0b00#2 ≠ 0b11#2) ∧
    (running (.initKeyIv 0b10#2) 0#32 0 []).busy = true ∧ (running .setIv 0#32 0 []).busy = true := by decide

/-- EcbEncCompletes to CtrXcryptCompletes and ModesRoundTrip: the whole of the smallest buffer. -/
theorem witness_data_commands (i : Instr) : (full i).lat.addr.toNat = 0 ∧ (full i).lat.len.toNat / 16 = 1 ∧
    (full i).busy = true ∧ (full i).readable 0 (16 * 1) := 
  ⟨rfl, (by decide : (0x10#32).toNat / 16 = 1), rfl, full_readable i⟩

/-- The end of the buffer as an address, and an empty region. -/
theorem witness_ZeroLengthCommandChangesNothing :
    (let s : State := { ready 0 [] with addr := 0x1000#32 }
     s.busy = false ∧ s.keyValid = true ∧ s.ivValid = true ∧ s.len = 0#32 ∧ s.addr.toNat % 16 = 0 ∧
       s.addr.toNat ≤ s.params.bufBytes) ∧
    ((running .ctrXcrypt 0#32 0 []).busy = true ∧ (running .ctrXcrypt 0#32 0 []).lat.len = 0#32) :=
  ⟨⟨rfl, rfl, rfl, rfl, by decide, by decide⟩, rfl, rfl⟩

/-- The second of two blocks is missing; a word misses its last byte only. -/
theorem witness_UnwrittenBytesFault :
    (let s := running .ecbEnc 0x20#32 0 (hex 16 0)
     s.busy = true ∧ s.lat.addr.toNat ≤ 16 ∧ 16 < s.lat.addr.toNat + 16 * (s.lat.len.toNat / 16) ∧
       s.bufByte? 16 = none ∧ s.readable s.lat.addr.toNat (16 - s.lat.addr.toNat)) ∧
    (let s := facing (ready 0 (hex 3 0)) (.hostRead 0x1000#16)
     s.rstN = true ∧ s.busy = false ∧ (0x1000#16).toNat = 0x1000 + 4 * 0 ∧ 4 * 0 < s.params.bufBytes ∧
       s.bufByte? 3 = none ∧ s.readable (4 * 0) (3 - 4 * 0)) :=
  ⟨⟨rfl, by decide, by decide, rfl, readable_of_all (by decide)⟩,
    rfl, rfl, rfl, by decide, rfl, readable_of_all (by decide)⟩

theorem witness_SplitCommandEqualsWhole :
    (let s := running .cbcEnc 0x20#32 0 m2
     s.busy = true ∧ s.lat.addr.toNat + 16 * (1 + 1) ≤ s.params.bufBytes ∧
       s.readable s.lat.addr.toNat (16 * (1 + 1))) :=
  ⟨rfl, by decide, running_readable .cbcEnc⟩

/-- Block 1 of two differs; and block 0 of two, which has a block after it. -/
theorem witness_CbcErrorPropagation :
    (let s := running .cbcDec 0x20#32 0 m2
     let m := memWrite s.buf 16 [0x00#8]
     s.lat.len.toNat / 16 = 2 ∧ s.readable 0 (16 * 2) ∧ ({ s with buf := m } : State).readable 0 (16 * 2) ∧
       (∀ o, ¬(0 + 16 * 1 ≤ o ∧ o < 0 + 16 * 1 + 16) → ({ s with buf := m } : State).bufByte? o = s.bufByte? o) ∧
       ({ s with buf := m } : State).blockAt? (0 + 16 * 1) ≠ s.blockAt? (0 + 16 * 1)) ∧
    (let s := running .cbcDec 0x20#32 0 m2
     let m := memWrite s.buf 15 [0x00#8]
     ({ s with buf := m } : State).readable 0 (16 * 2) ∧ 0 + 1 < s.lat.len.toNat / 16 ∧
       (∀ o, ¬(0 + 16 * 0 ≤ o ∧ o < 0 + 16 * 0 + 16) → ({ s with buf := m } : State).bufByte? o = s.bufByte? o) ∧
       ({ s with buf := m } : State).blockAt? (0 + 16 * 0) ≠ s.blockAt? (0 + 16 * 0)) := by
  refine ⟨⟨rfl, running_readable .cbcDec, readable_of_all (by decide +kernel), ?_, by decide +kernel⟩,
    readable_of_all (by decide +kernel), by decide, ?_, by decide +kernel⟩
  · intro o h
    show byteAt? _ (memWrite _ 16 [0x00#8]) o = _
    rw [byteAt?_memWrite, if_neg (by simp; omega)]
    rfl
  · intro o h
    show byteAt? _ (memWrite _ 15 [0x00#8]) o = _
    rw [byteAt?_memWrite, if_neg (by simp; omega)]
    rfl

/-- A transaction meets its hypotheses in any state that faces it; one in the BUSY window and one outside. -/
theorem witness_port (e : Event) :
    ((facing (ready 0 m2) e).agenda = e :: [] ∧ (facing (ready 0 m2) e).rstN = true ∧ (facing (ready 0 m2) e).busy = false) ∧
    ((facing (running .setIv 0#32 0 m2) e).agenda = e :: [] ∧ (facing (running .setIv 0#32 0 m2) e).rstN = true ∧
      (facing (running .setIv 0#32 0 m2) e).busy = true) := ⟨⟨rfl, rfl, rfl⟩, rfl, rfl, rfl⟩

/-- The offsets of MisalignedTransactionsOnlyError, BusyWindowWrites and BusyWindowReadsZero at their bounds. -/
theorem witness_offsets :
    (0x0001#16).toNat % 4 ≠ 0 ∧ (0xFFFC#16).toNat % 4 = 0 ∧ (0x0004#16 ≠ 0x0008#16 ∧ 0x0010#16 ≠ 0x000C#16) ∧
    (0x0050 ≤ (0x005C#16).toNat ∧ (0x005C#16).toNat < 0x0060) ∧ (0x0100 ≤ (0x01EC#16).toNat ∧ (0x01EC#16).toNat < 0x01F0) ∧
    (0x1000 ≤ (0x1FFC#16).toNat ∧ (0x1FFC#16).toNat < 0x1000 + State.reset.params.bufBytes) := by decide

/-- The first and last offset of each clause of RegisterReads and RegisterWrites. -/
theorem witness_register_offsets :
    ((0x0020#16).toNat = 0x0020 + 4 * (0 : Fin 8).val ∧ (0x003C#16).toNat = 0x0020 + 4 * (7 : Fin 8).val) ∧
    ((0x0040#16).toNat = 0x0040 + 4 * (0 : Fin 4).val ∧ (0x004C#16).toNat = 0x0040 + 4 * (3 : Fin 4).val) ∧
    (0x0060 ≤ (0x0060#16).toNat ∧ (0x00FC#16).toNat ≤ 0x00FC) ∧ (0x01F0 ≤ (0x01F0#16).toNat ∧ (0x0FFC#16).toNat ≤ 0x0FFC) ∧
    0x1000 + State.reset.params.bufBytes ≤ (0x2000#16).toNat := by decide

/-- The last words of the `CV` and `RK` windows and the last word of `BUF`, which holds values. -/
theorem witness_windows :
    (0x005C#16).toNat = 0x0050 + 4 * (3 : Fin 4).val ∧ (0x01EC#16).toNat = 0x0100 + 4 * (59 : Fin 60).val ∧
    (let s : State := { ready 0 [] with buf := memWrite [] 0xffc (hex 4 0) }
     (0x1FFC#16).toNat = 0x1000 + 4 * 1023 ∧ 4 * 1023 < s.params.bufBytes ∧ s.readable (4 * 1023) 4) :=
  ⟨by decide, by decide, by decide, by decide, readable_of_all (by decide)⟩

/-- A set bit that a host write clears, and one that reset clears. -/
theorem witness_IntstatClearedByHostOrResetOnly :
    (∃ t, step (facing { State.reset with intstat := 0b011#3 } (.hostWrite 0x0008#16 2#32)) = .next t ∧ t.intstat = 0b001#3) ∧
    (∃ t, step (facing { State.reset with intstat := 0b011#3 } .assertReset) = .next t ∧ t.intstat = 0b000#3) :=
  ⟨after_some (f := (·.intstat)) (by decide), after_some (f := (·.intstat)) (by decide)⟩

theorem witness_ReadsHaveNoSideEffect : ∃ t, step (facing State.reset (.hostRead 0x0004#16)) = .next t ∧
    t.resp = some (.read true 0#32) := after_some (f := State.resp) (by decide)

theorem witness_ResetClearsEverything :
    (facing (running .cbcEnc 0x20#32 7 m2) .assertReset).agenda = .assertReset :: [] := rfl

theorem witness_NothingHappensInReset (e : Event) :
    State.reset.assertReset.rstN = false ∧ State.reset.assertReset.agenda = [] ∧
    (facing State.reset.assertReset e).rstN = false ∧ (facing State.reset.assertReset e).agenda = e :: [] :=
  ⟨rfl, rfl, rfl, rfl⟩

theorem witness_ResetRegistersReadZero :
    ((0x0FFC#16).toNat % 4 = 0 ∧ 0x0FFC#16 ≠ 0x0000#16 ∧ (0x0FFC#16).toNat < 0x1000) ∧
    ((0x1FFC#16).toNat % 4 = 0 ∧ 0x1000 ≤ (0x1FFC#16).toNat ∧ (0x1FFC#16).toNat < 0x1000 + State.reset.params.bufBytes) := by
  decide

/-- An event that stands first in an agenda with others after it, and the engine's turn of an empty agenda. -/
theorem witness_StepTakesItsArguments (e : Event) (rest : List Event) :
    (State.start instExpInv (e :: rest)).agenda = e :: rest ∧ (State.start instExpInv []).agenda = [] := ⟨rfl, rfl⟩

/-- A program that runs to its end in the instance with the smallest buffer, and one that faults at a byte it has not
written. -/
theorem witness_RunTakesItsArguments :
    (∃ t : State, Host.Core.run Sys2Proof.core 3
        (State.start instAltId [command .setIv, .hostRead 0x0004#16, .engine]) = .next t ∧ t.ivValid = true) ∧
    (∃ y rs, Engine.run instAltId [command .setIv, .hostRead 0x0004#16, .engine] Engine.initial = .next (y, rs) ∧
      rs = [some (.write true), some (.read true 0x00000001#32), none] ∧ y.ivValid = true) ∧
    Host.Core.run Sys2Proof.core 1 (State.start instAltId [.hostRead 0x100C#16]) = .fault (.unwrittenRead 12) ∧
    Engine.run instAltId [.hostRead 0x100C#16] Engine.initial = .fault (.unwrittenRead 12) :=
  ⟨⟨_, rfl, rfl⟩, ⟨_, _, rfl, rfl, rfl⟩, rfl, rfl⟩

/-- A key load that changes the key size. -/
theorem witness_OnlyKeyLoadsWriteTheKey : ∃ t, step (running (.initKey 0b10#2) 0#32 0 []) = .next t ∧
    (t.keyValid, t.ksCur) = (true, .k256) := after_some (f := fun t => (t.keyValid, t.ksCur)) (by decide +kernel)

/-- An IV load, and a chaining command. -/
theorem witness_OnlyChainingCommandsWriteTheChain :
    (∃ t, step (running .setIv 0#32 7 []) = .next t ∧ (t.cv, t.ivValid) = (blk 0, true)) ∧
    (∃ t, step (full .ctrXcrypt) = .next t ∧ (t.cv, t.ivValid) = (blk 1, true)) :=
  ⟨after_some (f := fun t => (t.cv, t.ivValid)) (by decide +kernel),
    after_some (f := fun t => (t.cv, t.ivValid)) (by decide +kernel)⟩

/-- A host write, a data command and reset, each changing a byte. -/
theorem witness_OnlyTheRegionOfBufChanges :
    (∃ t, step (facing State.reset (.hostWrite 0x1000#16 0x01000000#32)) = .next t ∧ t.bufByte? 3 = some 0x01#8) ∧
    (∃ t, step (full .ctrXcrypt) = .next t ∧ (t.bufByte? 15 == (full .ctrXcrypt).bufByte? 15) = false) ∧
    (∃ t, step (facing (full .setIv) .assertReset) = .next t ∧ t.bufByte? 15 = none) :=
  ⟨after_some (f := fun t => t.bufByte? 3) (by decide +kernel),
    after_some (f := fun t => t.bufByte? 15 == (full .ctrXcrypt).bufByte? 15) (by decide +kernel),
    after_some (f := fun t => t.bufByte? 15) (by decide +kernel)⟩

/-- A write of each of the host's registers. -/
theorem witness_OnlyTheHostWritesItsRegisters :
    (∃ t, step (facing State.reset (.hostWrite 0x0014#16 5#32)) = .next t ∧ t.addr = 5#32) ∧
    (∃ t, step (facing State.reset (.hostWrite 0x0018#16 5#32)) = .next t ∧ t.len = 5#32) ∧
    (∃ t, step (facing State.reset (.hostWrite 0x003C#16 5#32)) = .next t ∧ t.key[7] = 5#32) ∧
    (∃ t, step (facing State.reset (.hostWrite 0x004C#16 5#32)) = .next t ∧ t.ivin[3] = 5#32) ∧
    (∃ t, step (facing (running .setIv 0#32 0 []) (.hostWrite 0x000C#16 0xfd#32)) = .next t ∧ t.inten = 0b101#3) :=
  ⟨after_some (f := (·.addr)) (by decide +kernel), after_some (f := (·.len)) (by decide +kernel),
    after_some (f := fun t => t.key[7]) (by decide +kernel), after_some (f := fun t => t.ivin[3]) (by decide +kernel),
    after_some (f := (·.inten)) (by decide +kernel)⟩

theorem witness_InstanceNeverChanges : ∃ t, step State.reset = .next t ∧ t.busy = false :=
  after_some (f := (·.busy)) (by decide)

/-- A full buffer inside the BUSY window of a chaining command meets the invariant, facing any events. -/
theorem full_invariant (agenda : List Event) : Invariant { full .cbcEnc with agenda := agenda } where
  bufCanonical := by show Memory.wf (memWrite [] 0 _); exact memWrite_wf 0 _ List.Pairwise.nil
  bufInside := memWrite_inside (limit := 16) (by decide) (by simp)
  errShowsCode := rfl
  noKey := fun h => nomatch h
  rkTail := fun i _ h => by
    show rkWord (Vector.replicate 60 zeroQuad) i = zeroQuad
    simp [rkWord, h]
  noIv := fun h => nomatch h
  latched := fun _ => ⟨.cbcEnc, rfl, rfl, rfl, rfl, fun _ => rfl, fun _ =>
    ⟨rfl, rfl, (by decide : (0x10#32).toNat % 16 = 0), (by decide : (0#32).toNat + (0x10#32).toNat ≤ 16)⟩⟩
  heldInReset := fun h => nomatch h

theorem witness_StepKeepsInvariant :
    Invariant (full .cbcEnc) ∧ ∃ t, step (full .cbcEnc) = .next t ∧ t.busy = false :=
  ⟨full_invariant [], after_some (f := (·.busy)) (by decide +kernel)⟩

theorem witness_StatusRead_write : ∃ t, step (facing State.reset (.hostWrite 0x0004#16 0xffffffff#32)) = .next t ∧
    t.statusWord = 0#32 := after_some (f := State.statusWord) (by decide)

/-- Round keys that differ past those of AES-128 only. -/
theorem witness_CipherIsTheRoundSequence : State.reset.ksCur = .k128 ∧
    (∀ (i : Nat) (h : i < 60), i < 4 * (State.reset.ksCur.nr + 1) →
      (State.reset.rk.set 59 ⟨1#8, 0#8, 0#8, 0#8⟩)[i] = State.reset.rk[i]) :=
  ⟨rfl, fun i h hi => Vector.getElem_set_ne _ _ (by simp [State.reset, State.initial, State.start, Engine.initial, KeySize.nr] at hi; omega)⟩

theorem witness_OnlyUnwrittenReadsStop :
    Invariant { full .cbcEnc with agenda := [.hostRead 0x0004#16] } := full_invariant _

theorem witness_CommandCompletesAfterPolling :
    (let s : State := { full .cbcEnc with agenda := List.replicate 2 (.hostRead 0x0004#16) }
     Invariant s ∧ s.rstN = true ∧ s.busy = true ∧ s.readable s.lat.addr.toNat s.lat.len.toNat) :=
  ⟨full_invariant _, rfl, rfl, readable_of_all (by decide +kernel)⟩

theorem witness_IdleEngineDoesNothing : State.reset.busy = false ∧ State.reset.agenda = [] ∧
    (facing State.reset .engine).busy = false ∧ (facing State.reset .engine).agenda = .engine :: [] := ⟨rfl, rfl, rfl, rfl⟩

end Sys2Proof.Tests
end

section
/-! SUPPORT. The invariant (O52, O53): it holds of every state whose engine has its reset values, each named update of the
state keeps it, and so does every step. -/

namespace Sys2Proof.Machine

/-! The key expansion fills `4(Nr + 1)` words (R114) -/

theorem extendWords_length (p : Params) (nk n : Nat) (ws : List Quad) :
    (extendWords p nk n ws).length = ws.length + n := by
  induction n generalizing ws with
  | zero => rfl
  | succ n ih => simp only [extendWords, ih, List.length_append, List.length_singleton]; omega

theorem keyWords_length (s : State) (k : KeySize) : (s.keyWords k).length = k.nk := by
  have hk : k.nk ≤ 8 := by cases k <;> decide
  simp [State.keyWords, hk]

theorem keyExpansion_length (p : Params) (k : KeySize) {key : List Quad} (h : key.length = k.nk) :
    (keyExpansion p k key).length = 4 * (k.nr + 1) := by
  rw [keyExpansion, extendWords_length, h]
  cases k <;> rfl

/-- Past the words of the expansion the round-key store is zero (R118). -/
theorem rkWord_roundKeyStore_tail {ws : List Quad} {i : Nat} (h : ws.length ≤ i) (hi : i < 60) :
    rkWord (roundKeyStore ws) i = zeroQuad := by
  simp [rkWord, roundKeyStore, wordAt, hi, List.getElem?_eq_none h]

/-! States that meet the invariant -/

/-- An engine with its reset values meets the invariant, whatever the level of `rst_n` and whatever stands beside it. -/
theorem invariant_of_initial {s : State} (r : Bool) (h : s.toEngine = { Engine.initial with rstN := r }) :
    Invariant s := by
  obtain ⟨x, ⟨p, agenda⟩, resp⟩ := s
  obtain rfl : x = _ := h
  exact
    { bufCanonical := List.Pairwise.nil
      bufInside := fun _ hc => absurd hc List.not_mem_nil
      errShowsCode := rfl
      noKey := fun _ => ⟨rfl, rfl⟩
      rkTail := fun i _ hi => by simp [Engine.initial, rkWord, hi]
      noIv := fun _ => rfl
      latched := fun hb => nomatch hb
      heldInReset := fun hr => by simpa using hr }

/-! Updates that keep the invariant -/

/-- The events to come and the last response are not in the invariant. -/
theorem Invariant.beside {s : State} (h : Invariant s) (a : List Event) (r : Option BusResponse) :
    Invariant (s.beside a r) := { h with }

theorem Invariant.releaseReset {s : State} (h : Invariant s) : Invariant s.releaseReset := by
  cases hr : s.rstN with
  | false =>
    refine invariant_of_initial true ?_
    show ({ s.toEngine with rstN := true } : Engine) = _
    rw [h.heldInReset hr]
  | true => exact { h with heldInReset := fun hf => nomatch hf }

theorem Invariant.finish {s : State} (h : Invariant s) (hr : s.rstN = true) : Invariant s.finish :=
  { h with
    latched := fun hb => nomatch hb
    heldInReset := fun hf => absurd (hr.symm.trans hf) nofun }

theorem Invariant.loadKey {s : State} (h : Invariant s) (hr : s.rstN = true) (k : KeySize) :
    Invariant (s.loadKey k) :=
  { h with
    noKey := fun hv => nomatch hv
    rkTail := fun _ hi => rkWord_roundKeyStore_tail (by rwa [keyExpansion_length _ _ (keyWords_length s k)])
    latched := fun hb => by
      obtain ⟨i, hd, ha, hl, he, hc, hdata⟩ := h.latched hb
      exact ⟨i, hd, ha, hl, he, hc, fun hi => ⟨rfl, (hdata hi).2⟩⟩
    heldInReset := fun hf => absurd (hr.symm.trans hf) nofun }

theorem Invariant.loadIv {s : State} (h : Invariant s) (hr : s.rstN = true) : Invariant s.loadIv :=
  { h with
    noIv := fun hv => nomatch hv
    latched := fun hb => by
      obtain ⟨i, hd, ha, hl, he, -, hdata⟩ := h.latched hb
      exact ⟨i, hd, ha, hl, he, fun _ => rfl, hdata⟩
    heldInReset := fun hf => absurd (hr.symm.trans hf) nofun }

/-- A data command keeps the invariant: without an IV it is one that does not chain, so `CV` stays zero. -/
theorem Invariant.setRegion {s : State} (h : Invariant s) (hr : s.rstN = true) {m : Memory} {c : Block}
    (hm : RegionOnly s m) (hc : s.ivValid = false → c = s.cv) : Invariant (s.setRegion m c) :=
  { h with
    bufCanonical := hm.canonical h.bufCanonical
    bufInside := hm.inside h.bufInside
    noIv := fun hv => (hc hv).trans (h.noIv hv)
    heldInReset := fun hf => absurd (hr.symm.trans hf) nofun }

/-- The completion of the latched command keeps the invariant (R171). -/
theorem Invariant.completion {s u : State} {i : Instr} (h : Invariant s) (hr : s.rstN = true) (hb : s.busy = true)
    (hd : decodeFields s.lat.op s.lat.ks = .ok i) (hu : effectOf i s = .next u) : Invariant u.finish := by
  have hchain : isChaining i = true → s.ivValid = true := by
    obtain ⟨j, hj, -, -, -, hc, -⟩ := h.latched hb
    obtain rfl : j = i := Except.ok.inj (hj.symm.trans hd)
    exact hc
  rcases effectOf_cases ((decodeFields_ok_iff _ _ _).mp hd).1 s with
    ⟨k, -, he⟩ | ⟨k, -, he⟩ | ⟨-, he⟩ | ⟨-, ⟨m, c, he, hc, hm⟩ | ⟨o, he, -⟩⟩ <;>
    rw [he] at hu <;> cases hu
  · exact (h.loadKey hr k).finish hr
  · exact ((h.loadKey hr k).loadIv hr).finish hr
  · exact (h.loadIv hr).finish hr
  · refine (h.setRegion hr hm fun hv => hc ?_).finish hr
    exact Bool.eq_false_iff.mpr fun hi => by simp [hchain hi] at hv

/-- An accepted command has passed the checks that the invariant asks of the latch (R170, R201). -/
theorem Invariant.accept {s : State} (h : Invariant s) (hr : s.rstN = true) {i : Instr}
    (hi : checkCommand i s = none) : Invariant (s.accept i) := by
  obtain ⟨hw, hkey, hiv, hregion⟩ := (checkCommand_eq_none_iff i s).mp hi
  exact
    { h with
      errShowsCode := rfl
      latched := fun _ => ⟨i, (decodeFields_ok_iff _ _ _).mpr ⟨hw, rfl, rfl⟩, rfl, rfl, rfl, hiv,
        fun hdata => ⟨hkey hdata, hregion hdata⟩⟩
      heldInReset := fun hf => absurd (hr.symm.trans hf) nofun }

theorem Invariant.setBufWord {s : State} (h : Invariant s) (hr : s.rstN = true) {n : Nat}
    (hn : 4 * n < s.params.bufBytes) (v : Word) : Invariant (s.setBufWord n v) :=
  have hle : 4 * n + 4 ≤ s.params.bufBytes := by have := params_bufBytes_mod s.params; omega
  { h with
    bufCanonical := memWrite_wf _ _ h.bufCanonical
    bufInside := memWrite_inside hle h.bufInside
    heldInReset := fun hf => absurd (hr.symm.trans hf) nofun }

/-- Every host write outside reset keeps the invariant. Where one changes what the latch clause speaks of, `BUSY` is 0. -/
theorem Invariant.written {s t : State} {off : BitVec 16} {v : Word} (h : Invariant s) (hr : s.rstN = true)
    (hw : WritesTo s off v t) : Invariant t := by
  have high : ∀ {P : Prop}, s.rstN = false → P := fun hf => absurd (hr.symm.trans hf) nofun
  have idle : ∀ {P : Prop}, s.busy = false → s.busy = true → P := fun h0 h1 => absurd (h0.symm.trans h1) nofun
  have hq := h.beside s.agenda (some (.write true))
  cases hw with
  | misaligned _ => exact h.beside s.agenda _
  | ignored _ _ => exact hq
  | dropped _ _ _ _ => exact { hq with heldInReset := high }
  | intstat _ => exact { hq with heldInReset := high }
  | inten _ => exact { hq with heldInReset := high }
  | key n _ _ => exact { hq with heldInReset := high }
  | ivin n _ _ => exact { hq with heldInReset := high }
  | rejected e _ hb => exact { hq with errShowsCode := rfl, latched := idle hb, heldInReset := high }
  | addr _ hb => exact { hq with latched := idle hb, heldInReset := high }
  | len _ hb => exact { hq with latched := idle hb, heldInReset := high }
  | accepted i _ _ _ hc => exact hq.accept hr hc
  | buf n _ hn _ => exact hq.setBufWord hr hn v

/-- Settles O52, by the cases of a step: each is a named update that keeps the invariant. -/
theorem stepKeepsInvariant : Obligations.StepKeepsInvariant := by
  intro s t h hs
  cases stepsTo_of_step hs with
  | asserted rest _ => exact invariant_of_initial false rfl
  | released rest _ => exact (h.beside rest s.resp).releaseReset
  | noResponse e rest _ _ => exact h.beside rest none
  | passed rest _ _ => exact h.beside rest s.resp
  | waits _ _ => exact h
  | read off rest r _ _ => exact h.beside rest (some r)
  | written off v rest _ _ hr hw => exact (h.beside rest s.resp).written hr hw
  | completed i rest u _ hr hb hd hu => exact (h.beside rest s.resp).completion hr hb hd hu

/-- Settles O53: the engine has its reset values. -/
theorem resetMeetsInvariant : Obligations.ResetMeetsInvariant :=
  fun _ _ => invariant_of_initial true rfl

end Sys2Proof.Machine
end

section
/-! SUPPORT. What changes what (O41, O47 to O51): the ways in which a step can change the engine, and from them the steps
that can change each register. -/

namespace Sys2Proof.Machine

/-! What a step can change -/

/-- What a completion leaves (R118, R119, R176 to R181), by the command that was latched. -/
theorem effectOf_next_cases {i : Instr} {s u : State} (hw : i.wellFormed = true) (h : effectOf i s = .next u) :
    (∃ k, i = .initKey k.bits ∧ u = s.loadKey k) ∨ (∃ k, i = .initKeyIv k.bits ∧ u = (s.loadKey k).loadIv) ∨
    (i = .setIv ∧ u = s.loadIv) ∨
    (isData i = true ∧ ∃ m c, u = s.setRegion m c ∧ (isChaining i = false → c = s.cv) ∧ RegionOnly s m) := by
  rcases effectOf_cases hw s with ⟨k, hi, he⟩ | ⟨k, hi, he⟩ | ⟨hi, he⟩ | ⟨hi, ⟨m, c, he, hm⟩ | ⟨o, he, -⟩⟩ <;>
    rw [he] at h <;> cases h
  · exact .inl ⟨k, hi, rfl⟩
  · exact .inr (.inl ⟨k, hi, rfl⟩)
  · exact .inr (.inr (.inl ⟨hi, rfl⟩))
  · exact .inr (.inr (.inr ⟨hi, m, c, rfl, hm⟩))

/-- The next event of a state is the engine's turn: it stands first, or no event is left. -/
def State.enginesTurn (s : State) : Prop := s.agenda = [] ∨ ∃ rest, s.agenda = .engine :: rest

/-- A step that changes the engine in more than the level of `rst_n` is the assertion of reset, a host write, or the
completion of the latched command. -/
theorem step_changes {s t : State} (h : step s = .next t) :
    (∃ rest, s.agenda = .assertReset :: rest) ∨
    ((∃ r, t.toEngine = { s.toEngine with rstN := r }) ∧ t.params = s.params) ∨
    (∃ off v rest, s.agenda = .hostWrite off v :: rest ∧ WritesTo (s.withAgenda rest) off v t) ∨
    (∃ i rest u, s.busy = true ∧ s.enginesTurn ∧ i.wellFormed = true ∧ i.opcode = s.lat.op ∧
      effectOf i (s.withAgenda rest) = .next u ∧ t = u.finish) := by
  cases stepsTo_of_step h with
  | asserted rest ha => exact .inl ⟨rest, ha⟩
  | released rest _ => exact .inr (.inl ⟨⟨_, rfl⟩, rfl⟩)
  | noResponse e rest _ _ => exact .inr (.inl ⟨⟨_, rfl⟩, rfl⟩)
  | passed rest _ _ => exact .inr (.inl ⟨⟨_, rfl⟩, rfl⟩)
  | waits _ _ => exact .inr (.inl ⟨⟨_, rfl⟩, rfl⟩)
  | read off rest r _ _ => exact .inr (.inl ⟨⟨_, rfl⟩, rfl⟩)
  | written off v rest _ ha _ hw => exact .inr (.inr (.inl ⟨off, v, rest, ha, hw⟩))
  | completed i rest u ha _ hb hd hu =>
    obtain ⟨hw, hop, -⟩ := (decodeFields_ok_iff _ _ _).mp hd
    exact .inr (.inr (.inr ⟨i, rest, u, hb, ha.imp And.left fun ha => ⟨rest, ha⟩, hw, hop, hu, rfl⟩))

/-! What a host write can change -/

theorem WritesTo.params_eq {s t : State} {off : BitVec 16} {v : Word} (h : WritesTo s off v t) :
    t.params = s.params := by cases h <;> rfl

/-- No host write changes the key state (R40, R42, R237). -/
theorem WritesTo.key_state_eq {s t : State} {off : BitVec 16} {v : Word} (h : WritesTo s off v t) :
    (t.rk, t.keyValid, t.ksCur) = (s.rk, s.keyValid, s.ksCur) := by cases h <;> rfl

/-- No host write changes the chaining state (R41, R42, R237). -/
theorem WritesTo.chain_state_eq {s t : State} {off : BitVec 16} {v : Word} (h : WritesTo s off v t) :
    (t.cv, t.ivValid) = (s.cv, s.ivValid) := by cases h <;> rfl

/-- A host write changes a byte of `BUF` only outside the BUSY window, and then one of the four of its word (R65). -/
theorem WritesTo.bufByte?_cases {s t : State} {off : BitVec 16} {v : Word} (h : WritesTo s off v t) (o : Nat) :
    t.bufByte? o = s.bufByte? o ∨
    (s.busy = false ∧ off.toNat % 4 = 0 ∧ off.toNat ≤ 0x1000 + o ∧ 0x1000 + o < off.toNat + 4) := by
  cases h with
  | buf n hoff _ hb =>
    by_cases ho : 4 * n ≤ o ∧ o < 4 * n + 4
    · exact .inr ⟨hb, by omega, by omega, by omega⟩
    · refine .inl ((byteAt?_memWrite _ _ _ _ _).trans (if_neg fun hin => ho hin.2))
  | _ => exact .inl rfl

/-- A host write clears a bit of `INTSTAT` only as an acknowledgement of it (R25). -/
theorem WritesTo.intstat_cleared {s t : State} {off : BitVec 16} {v : Word} (h : WritesTo s off v t) {b : Nat}
    (hs : s.intstat.getLsbD b = true) (ht : t.intstat.getLsbD b = false) :
    off = 0x0008#16 ∧ v.getLsbD b = true := by
  cases h with
  | intstat hoff =>
    have hb := BitVec.lt_of_getLsbD hs
    refine ⟨hoff, ?_⟩
    simpa [lowThree, hs, hb] using ht
  | dropped _ _ _ _ => simp [hs] at ht
  | rejected _ _ _ => simp [hs] at ht
  | _ => exact absurd (hs.symm.trans ht) nofun

/-! Each register of the host is changed by a write to its own offset only (R26, R28 to R31) -/

theorem WritesTo.addr_cases {s t : State} {off : BitVec 16} {v : Word} (h : WritesTo s off v t) :
    t.addr = s.addr ∨ (s.busy = false ∧ off = 0x0014#16 ∧ t.addr = v) := by
  cases h with
  | addr hoff hb => exact .inr ⟨hb, hoff, rfl⟩
  | _ => exact .inl rfl

theorem WritesTo.len_cases {s t : State} {off : BitVec 16} {v : Word} (h : WritesTo s off v t) :
    t.len = s.len ∨ (s.busy = false ∧ off = 0x0018#16 ∧ t.len = v) := by
  cases h with
  | len hoff hb => exact .inr ⟨hb, hoff, rfl⟩
  | _ => exact .inl rfl

theorem WritesTo.key_cases {s t : State} {off : BitVec 16} {v : Word} (h : WritesTo s off v t) (n : Fin 8) :
    t.key[n] = s.key[n] ∨ (s.busy = false ∧ off.toNat = 0x0020 + 4 * n ∧ t.key[n] = v) := by
  cases h with
  | key m hoff hb =>
    by_cases hm : m = n
    · subst hm; exact .inr ⟨hb, hoff, by simp⟩
    · exact .inl (by simp [Fin.val_inj, hm])
  | _ => exact .inl rfl

theorem WritesTo.ivin_cases {s t : State} {off : BitVec 16} {v : Word} (h : WritesTo s off v t) (n : Fin 4) :
    t.ivin[n] = s.ivin[n] ∨ (s.busy = false ∧ off.toNat = 0x0040 + 4 * n ∧ t.ivin[n] = v) := by
  cases h with
  | ivin m hoff hb =>
    by_cases hm : m = n
    · subst hm; exact .inr ⟨hb, hoff, by simp⟩
    · exact .inl (by simp [Fin.val_inj, hm])
  | _ => exact .inl rfl

theorem WritesTo.inten_cases {s t : State} {off : BitVec 16} {v : Word} (h : WritesTo s off v t) :
    t.inten = s.inten ∨ (off = 0x000C#16 ∧ t.inten = lowThree v) := by
  cases h with
  | inten hoff => exact .inr ⟨hoff, rfl⟩
  | _ => exact .inl rfl

/-! What a completion can change -/

/-- The opcodes of the data commands (R91, R201). -/
theorem opcode_of_isData {i : Instr} (h : isData i = true) : i.opcode ∈ [0x4#4, 0x5#4, 0x6#4, 0x7#4, 0x8#4] := by
  cases i with
  | initKey _ | initKeyIv _ | setIv => nomatch h
  | _ => decide

/-- The opcodes of the chaining commands (R91, R201). -/
theorem opcode_of_isChaining {i : Instr} (h : isChaining i = true) : i.opcode ∈ [0x6#4, 0x7#4, 0x8#4] := by
  cases i with
  | initKey _ | initKeyIv _ | setIv | ecbEnc | ecbDec => nomatch h
  | _ => decide

section Completion

variable {i : Instr} {s u : State} (hw : i.wellFormed = true) (h : effectOf i s = .next u)
include hw h

theorem effectOf_params_eq : u.params = s.params := by
  rcases effectOf_next_cases hw h with ⟨k, -, rfl⟩ | ⟨k, -, rfl⟩ | ⟨-, rfl⟩ | ⟨-, m, c, rfl, -⟩ <;> rfl

theorem effectOf_intstat_eq : u.intstat = s.intstat := by
  rcases effectOf_next_cases hw h with ⟨k, -, rfl⟩ | ⟨k, -, rfl⟩ | ⟨-, rfl⟩ | ⟨-, m, c, rfl, -⟩ <;> rfl

/-- No command writes the host's registers (R21). -/
theorem effectOf_host_registers_eq :
    u.addr = s.addr ∧ u.len = s.len ∧ u.key = s.key ∧ u.ivin = s.ivin ∧ u.inten = s.inten := by
  rcases effectOf_next_cases hw h with ⟨k, -, rfl⟩ | ⟨k, -, rfl⟩ | ⟨-, rfl⟩ | ⟨-, m, c, rfl, -⟩ <;>
    exact ⟨rfl, rfl, rfl, rfl, rfl⟩

/-- Only a key load writes the key state, and it leaves a valid key (R40, R42). -/
theorem effectOf_key_state_cases :
    (u.rk, u.keyValid, u.ksCur) = (s.rk, s.keyValid, s.ksCur) ∨
    ((i.opcode = 0x1#4 ∨ i.opcode = 0x2#4) ∧ u.keyValid = true) := by
  rcases effectOf_next_cases hw h with ⟨k, rfl, rfl⟩ | ⟨k, rfl, rfl⟩ | ⟨-, rfl⟩ | ⟨-, m, c, rfl, -⟩
  · exact .inr ⟨.inl rfl, rfl⟩
  · exact .inr ⟨.inr rfl, rfl⟩
  · exact .inl rfl
  · exact .inl rfl

/-- Only an IV load or a chaining command writes the chaining state; the one leaves a valid IV, the other `IV_VALID` as it
was (R41, R42). -/
theorem effectOf_chain_state_cases :
    (u.cv, u.ivValid) = (s.cv, s.ivValid) ∨ (i.opcode ∈ [0x2#4, 0x3#4] ∧ u.ivValid = true) ∨
    (i.opcode ∈ [0x6#4, 0x7#4, 0x8#4] ∧ u.ivValid = s.ivValid) := by
  rcases effectOf_next_cases hw h with ⟨k, rfl, rfl⟩ | ⟨k, rfl, rfl⟩ | ⟨rfl, rfl⟩ | ⟨hi, m, c, rfl, hc, -⟩
  · exact .inl rfl
  · exact .inr (.inl ⟨by simp [Instr.opcode], rfl⟩)
  · exact .inr (.inl ⟨by simp [Instr.opcode], rfl⟩)
  · cases hch : isChaining i with
    | false => exact .inl (by rw [hc hch]; rfl)
    | true => exact .inr (.inr ⟨opcode_of_isChaining hch, rfl⟩)

/-- A completion changes a byte of `BUF` only as a data command whose latched region holds it (R68). -/
theorem effectOf_bufByte?_cases (o : Nat) :
    u.bufByte? o = s.bufByte? o ∨
    (i.opcode ∈ [0x4#4, 0x5#4, 0x6#4, 0x7#4, 0x8#4] ∧ s.lat.addr.toNat ≤ o ∧
      o < s.lat.addr.toNat + s.lat.len.toNat) := by
  rcases effectOf_next_cases hw h with ⟨k, -, rfl⟩ | ⟨k, -, rfl⟩ | ⟨-, rfl⟩ | ⟨hi, m, c, rfl, -, hm⟩
  · exact .inl rfl
  · exact .inl rfl
  · exact .inl rfl
  · by_cases ho : s.regionStart ≤ o ∧ o < s.regionStart + 16 * s.blockCount
    · simp only [State.regionStart, State.blockCount] at ho
      exact .inr ⟨opcode_of_isData hi, ho.1, by omega⟩
    · exact .inl (hm.outside o ho)

end Completion

/-! The obligations -/

/-- Settles O51. -/
theorem instanceNeverChanges : Obligations.InstanceNeverChanges := by
  intro s t h
  rcases step_changes h with ⟨rest, ha⟩ | ⟨-, hp⟩ | ⟨off, v, rest, -, hw⟩ | ⟨i, rest, u, -, -, hi, -, hu, rfl⟩
  · rw [step_cons ha] at h; cases h; rfl
  · exact hp
  · exact hw.params_eq
  · exact (effectOf_params_eq hi hu : u.params = (s.withAgenda rest).params)

/-- Settles O41: a completion and a rejection only set bits, and so does a dropped write. -/
theorem intstatClearedByHostOrResetOnly : Obligations.IntstatClearedByHostOrResetOnly := by
  intro s t b h hs ht
  rcases step_changes h with ha | ⟨⟨r, he⟩, -⟩ | ⟨off, v, rest, ha, hw⟩ | ⟨i, rest, u, -, -, hi, -, hu, rfl⟩
  · exact .inl ha
  · rw [he] at ht; exact absurd (hs.symm.trans ht) nofun
  · obtain ⟨rfl, hv⟩ := hw.intstat_cleared hs ht
    exact .inr ⟨v, rest, ha, hv⟩
  · simp [effectOf_intstat_eq hi hu, hs] at ht

/-- Settles O47. -/
theorem onlyKeyLoadsWriteTheKey : Obligations.OnlyKeyLoadsWriteTheKey := by
  intro s t h hne
  rcases step_changes h with ha | ⟨⟨r, he⟩, -⟩ | ⟨off, v, rest, -, hw⟩ | ⟨i, rest, u, hb, ha, hi, hop, hu, rfl⟩
  · exact .inl ha
  · exact absurd (by rw [he]) hne
  · exact absurd hw.key_state_eq hne
  · rcases effectOf_key_state_cases hi hu with heq | ⟨hload, hv⟩
    · exact absurd heq hne
    · exact .inr ⟨hb, by rwa [hop] at hload, hv, ha⟩

/-- Settles O48. -/
theorem onlyChainingCommandsWriteTheChain : Obligations.OnlyChainingCommandsWriteTheChain := by
  intro s t h hne
  rcases step_changes h with ha | ⟨⟨r, he⟩, -⟩ | ⟨off, v, rest, -, hw⟩ | ⟨i, rest, u, hb, ha, hi, hop, hu, rfl⟩
  · exact .inl ha
  · exact absurd (by rw [he]) hne
  · exact absurd hw.chain_state_eq hne
  · rcases effectOf_chain_state_cases hi hu with heq | hchain
    · exact absurd heq hne
    · rw [hop] at hchain
      exact .inr ⟨hb, ha, hchain⟩

/-- Settles O49. -/
theorem onlyTheRegionOfBufChanges : Obligations.OnlyTheRegionOfBufChanges := by
  intro s t o h hne
  rcases step_changes h with ha | ⟨⟨r, he⟩, hp⟩ | ⟨off, v, rest, ha, hw⟩ | ⟨i, rest, u, hb, ha, hi, hop, hu, rfl⟩
  · exact .inl ha
  · exact absurd (by rw [State.bufByte?, he, hp]; rfl) hne
  · rcases hw.bufByte?_cases o with heq | ⟨hb, halign, hlo, hhi⟩
    · exact absurd heq hne
    · exact .inr (.inl ⟨hb, off, v, rest, ha, halign, hlo, hhi⟩)
  · rcases effectOf_bufByte?_cases hi hu o with heq | ⟨hdata, hlo, hhi⟩
    · exact absurd heq hne
    · exact .inr (.inr ⟨hb, ha, by rwa [hop] at hdata, hlo, hhi⟩)

/-- Settles O50. -/
theorem onlyTheHostWritesItsRegisters : Obligations.OnlyTheHostWritesItsRegisters := by
  intro s t h
  rcases step_changes h with ha | ⟨⟨r, he⟩, -⟩ | ⟨off, v, rest, ha, hw⟩ | ⟨i, rest, u, -, -, hi, -, hu, rfl⟩
  · exact .inl ha
  · refine .inr ⟨?_, ?_, fun n => ?_, fun n => ?_, ?_⟩ <;> exact fun hne => absurd (by rw [he]) hne
  · refine .inr ⟨fun hne => ?_, fun hne => ?_, fun n hne => ?_, fun n hne => ?_, fun hne => ?_⟩
    · obtain ⟨hb, rfl, hv⟩ := hw.addr_cases.resolve_left hne
      exact ⟨hb, v, rest, ha, hv⟩
    · obtain ⟨hb, rfl, hv⟩ := hw.len_cases.resolve_left hne
      exact ⟨hb, v, rest, ha, hv⟩
    · obtain ⟨hb, hoff, hv⟩ := (hw.key_cases n).resolve_left hne
      exact ⟨hb, off, v, rest, ha, hoff, hv⟩
    · obtain ⟨hb, hoff, hv⟩ := (hw.ivin_cases n).resolve_left hne
      exact ⟨hb, off, v, rest, ha, hoff, hv⟩
    · obtain ⟨rfl, hv⟩ := hw.inten_cases.resolve_left hne
      exact ⟨v, rest, ha, hv⟩
  · obtain ⟨haddr, hlen, hkey, hivin, hinten⟩ := effectOf_host_registers_eq hi hu
    refine .inr ⟨?_, ?_, fun n => ?_, fun n => ?_, ?_⟩ <;>
      exact fun hne => absurd (by simp [haddr, hlen, hkey, hivin, hinten]) hne

end Sys2Proof.Machine
end

section
/-! SUPPORT. The port, register by register (O26, O35 to O38, O40, O42, O46, O56): what a read and a write of the register
at an offset make of a step, the lanes and fields of the words that are computed, then the obligations. -/

namespace Sys2Proof.Machine

/-! The first byte that holds no value (R49) -/

/-- No two bytes are both the first one of a region that holds no value. -/
theorem first_unwritten_unique {limit : Nat} {buf : Memory} {a o p : Nat} (hao : a ≤ o) (hap : a ≤ p)
    (ho : byteAt? limit buf o = none) (hp : byteAt? limit buf p = none)
    (ho' : ∀ q, a ≤ q → q < o → (byteAt? limit buf q).isSome = true)
    (hp' : ∀ q, a ≤ q → q < p → (byteAt? limit buf q).isSome = true) : o = p := by
  rcases Nat.lt_trichotomy o p with hlt | heq | hgt
  · exact absurd (hp' o hao hlt) (by simp [ho])
  · exact heq
  · exact absurd (ho' p hap hgt) (by simp [hp])

theorem memRead_of_first_unwritten {limit : Nat} {buf : Memory} {a n o : Nat} (hlo : a ≤ o) (hhi : o < a + n)
    (ho : byteAt? limit buf o = none) (hbefore : ∀ q, a ≤ q → q < o → (byteAt? limit buf q).isSome = true) :
    memRead limit buf a n = .error (.unwrittenRead o) := by
  rcases memRead_cases limit buf a n with ⟨l, -, hlen, hb⟩ | ⟨p, hp, hap, -, hpn, hpb⟩
  · have hk := hb (o - a) (by omega)
    rw [show a + (o - a) = o by omega, ho, List.getElem?_eq_getElem (by omega)] at hk
    cases hk
  · rw [hp, first_unwritten_unique hap hlo hpn ho hpb hbefore]

theorem dataEffect_of_first_unwritten (f : BlockStep) {s : State} {o : Nat} (hlo : s.regionStart ≤ o)
    (hhi : o < s.regionStart + 16 * s.blockCount) (ho : s.bufByte? o = none)
    (hbefore : ∀ q, s.regionStart ≤ q → q < o → (s.bufByte? q).isSome = true) :
    dataEffect f s = .fault (.unwrittenRead o) := by
  rcases dataEffect_cases f s with ⟨bs, hbs⟩ | ⟨p, hp, hap, -, hpn, hpb⟩
  · have hblock := (readBlock_ok_iff _ _ _ _).mp (hbs ((o - s.regionStart) / 16) (by omega))
      ((o - s.regionStart) % 16) (by omega)
    rw [show s.regionStart + 16 * ((o - s.regionStart) / 16) + (o - s.regionStart) % 16 = o by omega] at hblock
    exact absurd (ho.symm.trans hblock) nofun
  · rw [hp, first_unwritten_unique hap hlo hpn ho hpb hbefore]

/-! A transaction as a step -/

theorem step_read {s : State} {off : BitVec 16} {rest : List Event} (ha : s.agenda = .hostRead off :: rest)
    (hr : s.rstN = true) : step s = hostRead off (s.withAgenda rest) := by
  simp [step_cons ha, runEvent, hr]

theorem step_write {s : State} {off : BitVec 16} {v : Word} {rest : List Event}
    (ha : s.agenda = .hostWrite off v :: rest) (hr : s.rstN = true) :
    step s = hostWrite off v (s.withAgenda rest) := by
  simp [step_cons ha, runEvent, hr]

/-- A read of a register answers its value (R60, R64) and changes nothing else (R66). -/
theorem step_read_register {s : State} {off : BitVec 16} {rest : List Event} {w : Word} (r : Reg)
    (ha : s.agenda = .hostRead off :: rest) (hr : s.rstN = true) (halign : off.toNat % 4 = 0)
    (hl : r.liesAt s.params.bufBytes off.toNat) (hw : readReg r (s.withAgenda rest) = .ok w) :
    step s = .next { s with agenda := rest, resp := some (.read true w) } := by
  have hreg : regAt (s.withAgenda rest).params.bufBytes off.toNat = r := regAt_of_liesAt halign hl
  rw [step_read ha hr, hostRead, if_neg (by omega), hreg, hw]
  rfl

/-- A write to a register outside the BUSY window is performed (R64, R208). -/
theorem step_write_register {s : State} {off : BitVec 16} {v : Word} {rest : List Event} (r : Reg)
    (ha : s.agenda = .hostWrite off v :: rest) (hr : s.rstN = true) (hb : s.busy = false)
    (halign : off.toNat % 4 = 0) (hl : r.liesAt s.params.bufBytes off.toNat) :
    step s = writeReg r v { s with agenda := rest, resp := some (.write true) } := by
  have hreg : regAt (s.withAgenda rest).params.bufBytes off.toNat = r := regAt_of_liesAt halign hl
  rw [step_write ha hr, hostWrite, if_neg (by omega), if_neg (by simp [hb]), hreg]
  rfl

/-- A read of a `BUF` word outside the BUSY window stops at its first byte that holds no value (R49, R65). -/
theorem step_read_unwritten {s : State} {off : BitVec 16} {rest : List Event} {n o : Nat}
    (ha : s.agenda = .hostRead off :: rest) (hr : s.rstN = true) (hb : s.busy = false)
    (hoff : off.toNat = 0x1000 + 4 * n) (hn : 4 * n < s.params.bufBytes) (hlo : 4 * n ≤ o) (hhi : o < 4 * n + 4)
    (ho : s.bufByte? o = none) (hread : s.readable (4 * n) (o - 4 * n)) :
    step s = .fault (.unwrittenRead o) := by
  have hreg : regAt s.params.bufBytes off.toNat = .buf n := regAt_of_liesAt (by omega) ⟨hoff, hn⟩
  have hmem : memRead s.params.bufBytes s.buf (4 * n) 4 = .error (.unwrittenRead o) :=
    memRead_of_first_unwritten hlo hhi ho fun q hq hqo => hread q hq (by omega)
  rw [step_read ha hr, hostRead, if_neg (by omega)]
  simp [hreg, readReg, hb, readBufWord, hmem]

/-! The words that are computed -/

/-- Lane `j` of a host word is byte `j` (R62). -/
theorem laneWord_lane (q : Quad) {j : Nat} (hj : j < 4) : (laneWord q).extractLsb' (8 * j) 8 = q.bytes.getD j 0#8 := by
  ext b hb
  interval_cases j <;> simp [Quad.bytes] <;> grind [laneWord]

/-- Byte `4n + j` of a block is byte `j` of its column `n` (R11). -/
theorem block_col_byte (b : Block) (n : Fin 4) {j : Nat} (hj : j < 4) :
    b.byte (4 * n + j) = (b.col n).bytes.getD j 0#8 := by
  fin_cases n <;> interval_cases j <;> rfl

/-- The word `STATUS` reads as right after reset (R23, R48). -/
theorem statusWord_start (p : Params) (program : List Event) : (State.start p program).statusWord = 0#32 := by
  show 0#22 ++ KeySize.k128.bits ++ errorCode none ++ BitVec.ofBool false ++ BitVec.ofBool false ++
    BitVec.ofBool false ++ BitVec.ofBool false = 0#32
  decide

/-- Right after reset every register but `CONFIG` and the words of `BUF` reads zero (R48). -/
theorem readReg_start (p : Params) (program : List Event) {r : Reg} (hconfig : r ≠ .config) (hbuf : ∀ n, r ≠ .buf n) :
    readReg r (State.start p program) = .ok 0#32 := by
  cases r with
  | config => exact absurd rfl hconfig
  | buf n => exact absurd rfl (hbuf n)
  | status => rw [readReg, statusWord_start]
  | key n => simp [readReg, State.start, Engine.initial]
  | ivin n => simp [readReg, State.start, Engine.initial]
  | cv n =>
    have hzero : ∀ n, laneWord (zeroBlock.col n) = 0#32 := by decide
    simp [readReg, State.start, Engine.initial, hzero]
  | rk n =>
    have hzero : laneWord zeroQuad = 0#32 := by decide
    simp [readReg, State.start, Engine.initial, hzero]
  | intstat | inten | cmd | addr | len | reserved => rfl

/-- Right after reset no byte of `BUF` holds a value (R49). -/
theorem bufByte?_start (p : Params) (program : List Event) (o : Nat) :
    (State.start p program).bufByte? o = none := ite_self _

/-! The obligations -/

/-- Settles O26: the block loop and the port both stop at the first byte that holds no value. -/
theorem unwrittenBytesFault : Obligations.UnwrittenBytesFault := by
  refine ⟨fun i s o hi hb hlo hhi ho hread => ?_,
    fun s off rest n o ha hr hb hoff hn hlo hhi ho hread => step_read_unwritten ha hr hb hoff hn hlo hhi ho hread⟩
  have hdata : isData i = true := by
    simp only [List.mem_cons, List.not_mem_nil, or_false] at hi
    rcases hi with rfl | rfl | rfl | rfl | rfl <;> rfl
  refine exec_busy_fault hb ?_
  rw [effectOf_data hdata]
  exact dataEffect_of_first_unwritten _ hlo hhi ho fun q hq hqo => hread q hq (by omega)

/-- Settles O35. -/
theorem registerReads : Obligations.RegisterReads := by
  intro s off w rest ha hr h
  rcases h with ⟨rfl, rfl⟩ | ⟨rfl, rfl⟩ | ⟨rfl, rfl⟩ | ⟨rfl, rfl⟩ | ⟨rfl, rfl⟩ | ⟨n, hoff, rfl⟩ | ⟨n, hoff, rfl⟩ |
    ⟨halign, rfl, hoff⟩
  · exact step_read_register .intstat ha hr rfl rfl rfl
  · exact step_read_register .inten ha hr rfl rfl rfl
  · exact step_read_register .cmd ha hr rfl rfl rfl
  · exact step_read_register .addr ha hr rfl rfl rfl
  · exact step_read_register .len ha hr rfl rfl rfl
  · exact step_read_register (.key n) ha hr (by omega) hoff rfl
  · exact step_read_register (.ivin n) ha hr (by omega) hoff rfl
  · refine step_read_register .reserved ha hr halign ?_ rfl
    rcases hoff with rfl | hoff | hoff | hoff
    · exact .inl rfl
    · exact .inr (.inl ⟨hoff.1, by omega⟩)
    · exact .inr (.inr (.inl ⟨hoff.1, by omega⟩))
    · exact .inr (.inr (.inr hoff))

/-- A write to `STATUS` changes nothing that it shows, whatever becomes of the write (R23). -/
theorem WritesTo.statusWord_eq {s t : State} {v : Word} (h : WritesTo s 0x0004#16 v t) :
    t.statusWord = s.statusWord := by
  cases h with
  | misaligned _ | dropped _ _ _ _ | ignored _ _ => rfl
  | intstat h | inten h | rejected _ h _ | accepted _ h _ _ _ | addr h _ | len h _ => exact absurd h (by decide)
  | key n h _ | ivin n h _ | buf n h _ _ => exact absurd h (by simp; omega)

/-- The fields of `STATUS` (R23). -/
theorem statusWord_fields (s : State) :
    s.statusWord.getLsbD 0 = s.busy ∧ s.statusWord.getLsbD 1 = s.keyValid ∧ s.statusWord.getLsbD 2 = s.ivValid ∧
    s.statusWord.getLsbD 3 = s.err ∧ s.statusWord.extractLsb' 4 4 = errorCode s.errCode ∧
    s.statusWord.extractLsb' 8 2 = s.ksCur.bits ∧ s.statusWord.extractLsb' 10 22 = 0#22 := by
  unfold State.statusWord
  generalize errorCode s.errCode = e
  generalize s.ksCur.bits = k
  refine ⟨by grind, by grind, by grind, by grind, ?_, ?_, ?_⟩ <;>
    · ext b hb
      grind

/-- Settles O36. -/
theorem statusRead : Obligations.StatusRead := by
  refine ⟨fun p => statusWord_start p [], fun s t v rest ha h => ?_, fun s rest ha hr => ?_⟩
  · cases stepsTo_of_step h with
    | noResponse _ _ _ _ => rfl
    | written _ _ _ _ ha' _ hw => cases ha.symm.trans ha'; exact hw.statusWord_eq
    | completed _ _ _ ha' _ _ _ _ => exact absurd ha' (by simp [ha])
    | asserted _ ha' | released _ ha' | passed _ ha' _ | waits ha' _ | read _ _ _ ha' _ => cases ha.symm.trans ha'
  · obtain ⟨hbusy, hkey, hiv, herr, hcode, hks, hzero⟩ := statusWord_fields s
    refine ⟨s.statusWord, step_read_register .status ha hr rfl rfl rfl, hbusy, hkey, hiv, herr, ?_, ?_, rfl, hzero⟩
    · rw [hcode]
      cases s.errCode with
      | none => decide
      | some e => cases e <;> decide
    · rw [hks]
      cases s.ksCur <;> decide

/-- The fields of `CONFIG` (R22). -/
theorem configWord_fields (p : Params) :
    (configWord p).getLsbD 0 = p.sboxBit ∧ (configWord p).getLsbD 1 = p.mixBit ∧
    (configWord p).extractLsb' 2 14 = 0#14 ∧ (configWord p).extractLsb' 16 16 = BitVec.ofNat 16 (p.bufBytes / 16) := by
  unfold configWord
  generalize BitVec.ofNat 16 (p.bufBytes / 16) = n
  refine ⟨by grind, by grind, ?_, ?_⟩ <;>
    · ext b hb
      grind

/-- Settles O37. -/
theorem configRead : Obligations.ConfigRead := by
  intro s rest ha hr
  obtain ⟨hsbox, hmix, hzero, hsize⟩ := configWord_fields s.params
  have hlegal := params_bufBytes_mod s.params
  refine ⟨configWord s.params, step_read_register .config ha hr rfl rfl rfl, ?_, ?_, hzero, ?_⟩
  · rw [hsbox, Params.sboxBit]; cases s.params.sbox <;> simp
  · rw [hmix, Params.mixBit]; cases s.params.mix <;> simp
  · rw [hsize, BitVec.toNat_ofNat, Nat.mod_eq_of_lt (by omega)]

/-- Settles O38. -/
theorem chainAndRoundKeyWindows : Obligations.ChainAndRoundKeyWindows := by
  intro s off rest ha hr hb
  refine ⟨fun n hoff => ⟨laneWord (s.cv.col n), ?_, fun j hj => ?_⟩,
    fun n hoff => ⟨laneWord s.rk[n], ?_, fun j hj => laneWord_lane _ hj⟩⟩
  · exact step_read_register (.cv n) ha hr (by omega) hoff (by simp [readReg, hb])
  · rw [laneWord_lane _ hj, block_col_byte _ _ hj]
  · exact step_read_register (.rk n) ha hr (by omega) hoff (by simp [readReg, hb])

/-- Settles O40. -/
theorem registerWrites : Obligations.RegisterWrites := by
  rintro s _ off v rest ha hr hb rfl
  refine ⟨?_, ?_, fun n hoff => ?_, fun n hoff => ?_, ?_, ?_, fun halign hoff => ?_⟩
  · rintro rfl; exact step_write_register .addr ha hr hb rfl rfl
  · rintro rfl; exact step_write_register .len ha hr hb rfl rfl
  · exact step_write_register (.key n) ha hr hb (by omega) hoff
  · exact step_write_register (.ivin n) ha hr hb (by omega) hoff
  · rintro rfl; exact step_write_register .intstat ha hr hb rfl rfl
  · rintro rfl; exact step_write_register .inten ha hr hb rfl rfl
  · have hl := regAt_liesAt s.params.bufBytes off.toNat halign
    rw [step_write_register _ ha hr hb halign hl]
    cases hreg : regAt s.params.bufBytes off.toNat with
    | config | status | cv _ | rk _ | reserved => rfl
    | _ => rw [hreg] at hl; simp only [Reg.liesAt] at hl; omega

/-- Settles O42. -/
theorem irqLevel : Obligations.IrqLevel := by
  refine ⟨fun s => ?_, fun _ => by simp [State.irq]⟩
  have hzero : s.irq = false ↔ ∀ b < 3, (s.intstat &&& s.inten).getLsbD b = false := by
    simp only [State.irq, bne_eq_false_iff_eq]
    exact ⟨fun h b _ => by simp [h], fun h => BitVec.eq_of_getLsbD_eq fun b hb => by simp [h b hb]⟩
  rw [← Bool.not_eq_false, hzero]
  simp

/-- Settles O46. -/
theorem resetRegistersReadZero : Obligations.ResetRegistersReadZero := by
  refine ⟨irqLevel.2 Params.default, fun off halign hconfig hlt => ?_, fun off halign hlo hhi => ?_⟩
  · have hl := regAt_liesAt Params.default.bufBytes off.toNat halign
    refine step_read_register _ rfl rfl halign hl (readReg_start Params.default [] ?_ fun n hn => ?_)
    · intro hc
      rw [hc] at hl
      exact hconfig (BitVec.eq_of_toNat_eq hl)
    · rw [hn] at hl
      have hlo : off.toNat = 0x1000 + 4 * n := hl.1
      omega
  · have hhi : off.toNat < 0x1000 + 4096 := hhi
    exact step_read_unwritten (n := (off.toNat - 0x1000) / 4) rfl rfl rfl (by omega)
      (show 4 * ((off.toNat - 0x1000) / 4) < 4096 by omega) (by omega) (by omega)
      (bufByte?_start Params.default [.hostRead off] _) fun _ _ _ => by omega

/-- Settles O56. -/
theorem idleEngineDoesNothing : Obligations.IdleEngineDoesNothing := by
  intro s hb
  have hidle : ∀ u : State, u.busy = false → runEvent .engine u = .next u := fun u hu => by
    simp [runEvent, engineStep, hu]
  exact ⟨fun ha => (step_nil ha).trans (hidle s hb), fun rest ha => (step_cons ha).trans (hidle _ hb)⟩

end Sys2Proof.Machine
end

section
/-! SUPPORT. The arguments of the step relation (O57, O58): an event does the same to two states that differ only in the
events to come and the last response, so a step is `Engine.next` and a run is `Engine.run` (R46). -/

namespace Sys2Proof.Machine

/-! No event reads the events to come or the last response -/

/-- A state with other events to come, its last response where the event sets it and `r` where it does not. -/
def State.besideAfter (e : Event) (a : List Event) (r : Option BusResponse) (t : State) : State :=
  t.beside a (if e.setsResponse then t.resp else r)

theorem readReg_beside (r : Reg) (s : State) (a : List Event) (q : Option BusResponse) :
    readReg r (s.beside a q) = readReg r s := by cases r <;> rfl

theorem hostRead_beside (off : BitVec 16) (s : State) (a : List Event) (r : Option BusResponse) :
    hostRead off (s.beside a r) = mapNext (State.besideAfter (.hostRead off) a r) (hostRead off s) := by
  unfold hostRead
  rw [readReg_beside, State.beside_params]
  split
  · rfl
  · cases readReg (regAt s.params.bufBytes off.toNat) s <;> rfl

theorem submitWord_beside (w : Word) (s : State) (a : List Event) (r : Option BusResponse) :
    submitWord w (s.beside a r) = mapNext (·.beside a r) (submitWord w s) := by
  unfold submitWord
  cases decode w with
  | error e => rfl
  | ok i => exact exec_beside i s a r

theorem writeReg_beside (x : Reg) (v : Word) (s : State) (a : List Event) (r : Option BusResponse) :
    writeReg x v (s.beside a r) = mapNext (·.beside a r) (writeReg x v s) := by
  cases x with
  | cmd => exact submitWord_beside v s a r
  | _ => rfl

/-- A write to a register leaves the response that the transaction has given. -/
theorem writeReg_resp {x : Reg} {v : Word} {s t : State} (h : writeReg x v s = .next t) : t.resp = s.resp := by
  have hself : writeReg x v s = mapNext (·.beside s.agenda s.resp) (writeReg x v s) :=
    writeReg_beside x v s s.agenda s.resp
  rw [h] at hself
  have ht : t = t.beside s.agenda s.resp := Host.Outcome.next.inj hself
  rw [ht]
  rfl

theorem hostWrite_beside (off : BitVec 16) (v : Word) (s : State) (a : List Event) (r : Option BusResponse) :
    hostWrite off v (s.beside a r) = mapNext (State.besideAfter (.hostWrite off v) a r) (hostWrite off v s) := by
  unfold hostWrite
  rw [State.beside_params, show (s.beside a r).busy = s.busy from rfl]
  split
  · rfl
  split
  · rfl
  have hbeside := writeReg_beside (regAt s.params.bufBytes off.toNat) v (s.respond (.write true)) a (some (.write true))
  refine hbeside.trans ?_
  cases hw : writeReg (regAt s.params.bufBytes off.toNat) v (s.respond (.write true)) with
  | next t => exact congrArg (fun q => Host.Outcome.next (t.beside a q)) (writeReg_resp hw).symm
  | fault e => rfl
  | refused e => rfl

theorem engineStep_beside (s : State) (a : List Event) (r : Option BusResponse) :
    engineStep (s.beside a r) = mapNext (·.beside a r) (engineStep s) := by
  unfold engineStep
  rw [show (s.beside a r).busy = s.busy from rfl, show (s.beside a r).lat = s.lat from rfl]
  split
  · cases decodeFields s.lat.op s.lat.ks with
    | ok i => exact exec_beside i s a r
    | error e => rfl
  · rfl

/-- What an event does depends on the engine and its instance alone (R46). -/
theorem runEvent_beside (e : Event) (s : State) (a : List Event) (r : Option BusResponse) :
    runEvent e (s.beside a r) = mapNext (State.besideAfter e a r) (runEvent e s) := by
  unfold runEvent
  rw [show (s.beside a r).rstN = s.rstN from rfl]
  cases e with
  | hostRead off => cases s.rstN with
    | true => exact hostRead_beside off s a r
    | false => rfl
  | hostWrite off v => cases s.rstN with
    | true => exact hostWrite_beside off v s a r
    | false => rfl
  | engine => cases s.rstN with
    | true => exact engineStep_beside s a r
    | false => rfl
  | assertReset => rfl
  | releaseReset => rfl

/-- No event changes the instance. -/
theorem runEvent_params {e : Event} {s t : State} (h : runEvent e s = .next t) : t.params = s.params := by
  have hstep : step (s.beside (e :: []) s.resp) = .next (State.besideAfter e [] s.resp t) := by
    rw [step_cons (State.beside_agenda s _ _)]
    exact (runEvent_beside e s [] s.resp).trans (by rw [h]; rfl)
  exact (instanceNeverChanges _ _ hstep : (State.besideAfter e [] s.resp t).params = _)

/-! The obligations -/

/-- Settles O57: the state of the step is the engine under its instance, with the rest beside it. -/
theorem stepTakesItsArguments : Obligations.StepTakesItsArguments := by
  intro s e rest h
  have hstep : step s = runEvent e ((s.toEngine.under s.params).beside rest s.resp) := by
    rcases h with ha | ⟨ha, rfl, rfl⟩
    · exact step_cons ha
    · rw [step_nil ha, ← ha]; rfl
  rw [hstep, runEvent_beside, Engine.next]
  cases hrun : runEvent e (s.toEngine.under s.params) with
  | next t =>
    have hp : t.params = s.params := (runEvent_params hrun : t.params = (s.toEngine.under s.params).params)
    simp [mapNext, engineOutcome, State.besideAfter, State.beside, hp]
  | fault f => rfl
  | refused r => rfl

/-- A step with an event left is that event in the engine: both go on, or both stop with one fault. -/
theorem step_engine_cases (p : Params) (e : Event) (rest : List Event) (x : Engine) (r : Option BusResponse) :
    (∃ y, Engine.next p e x = .next y ∧
      step { toEngine := x, params := p, agenda := e :: rest, resp := r } =
        .next { toEngine := y.1, params := p, agenda := rest, resp := if e.setsResponse then y.2 else r }) ∨
    (∃ f, Engine.next p e x = .fault f ∧
      step { toEngine := x, params := p, agenda := e :: rest, resp := r } = .fault f) := by
  have hstep := stepTakesItsArguments { toEngine := x, params := p, agenda := e :: rest, resp := r } e rest (.inl rfl)
  cases hx : Engine.next p e x with
  | next y => rw [hx] at hstep; exact .inl ⟨y, rfl, hstep⟩
  | fault f => rw [hx] at hstep; exact .inr ⟨f, rfl, hstep⟩
  | refused f =>
    rw [hx] at hstep
    rcases step_inv { toEngine := x, params := p, agenda := e :: rest, resp := r } with ⟨t, ht, -⟩ | ⟨g, hg, -⟩
    · cases hstep.symm.trans ht
    · cases hstep.symm.trans hg

/-- A run stops with the fault of its first step. -/
theorem run_succ_of_fault {s : State} {f : Fault} (k : Nat) (h : step s = .fault f) :
    Host.Core.run Sys2Proof.core (k + 1) s = .fault f := by
  have stop : ∀ (M : Host.Core) (a : M.State) (g : M.Fault), M.step a = .fault g → M.run (k + 1) a = .fault g := by
    intro M a g hg
    simp only [Host.Core.run, hg]
  exact stop Sys2Proof.core s f h

/-- A run of the model ends as the run of its engine does, with the instance as before and no event left, or both stop
with one fault. -/
theorem run_engine_cases (p : Params) (program : List Event) (x : Engine) (r : Option BusResponse) :
    (∃ y rs q, Engine.run p program x = .next (y, rs) ∧ rs.length = program.length ∧
      Host.Core.run Sys2Proof.core program.length
          ({ toEngine := x, params := p, agenda := program, resp := r } : State) =
        .next ({ toEngine := y, params := p, agenda := [], resp := q } : State)) ∨
    (∃ f : Fault, Engine.run p program x = .fault f ∧
      Host.Core.run Sys2Proof.core program.length
        ({ toEngine := x, params := p, agenda := program, resp := r } : State) = .fault f) := by
  induction program generalizing x r with
  | nil => exact .inl ⟨x, [], r, rfl, rfl, rfl⟩
  | cons e rest ih =>
    rcases step_engine_cases p e rest x r with ⟨y, hx, hstep⟩ | ⟨f, hx, hstep⟩
    · rcases ih y.1 (if e.setsResponse then y.2 else r) with ⟨z, rs, q, hrest, hlen, hrun⟩ | ⟨f, hrest, hrun⟩
      · exact .inl ⟨z, y.2 :: rs, q, by simp only [Engine.run, hx, hrest], congrArg (· + 1) hlen,
          (run_succ_of_step _ hstep).trans hrun⟩
      · exact .inr ⟨f, by simp only [Engine.run, hx, hrest], (run_succ_of_step _ hstep).trans hrun⟩
    · exact .inr ⟨f, by simp only [Engine.run, hx], run_succ_of_fault _ hstep⟩

/-- Settles O58, by induction on the program. -/
theorem runTakesItsArguments : Obligations.RunTakesItsArguments := by
  intro p program x r
  rcases run_engine_cases p program x r with ⟨y, rs, q, hx, hlen, hrun⟩ | ⟨f, hx, hrun⟩
  · refine ⟨fun t ht => ?_, fun z zs hz => ?_, fun g => ⟨fun h => ?_, fun h => ?_⟩⟩
    · cases hrun.symm.trans ht
      exact ⟨rfl, rfl, rs, hlen, hx⟩
    · cases hx.symm.trans hz
      exact ⟨_, hrun, rfl⟩
    · cases hrun.symm.trans h
    · cases hx.symm.trans h
  · refine ⟨fun t ht => ?_, fun z zs hz => ?_, fun g => ⟨fun h => ?_, fun h => ?_⟩⟩
    · cases hrun.symm.trans ht
    · cases hx.symm.trans hz
    · cases hrun.symm.trans h; exact hx
    · cases hx.symm.trans h; exact hrun

end Sys2Proof.Machine
end

section
/-! SUPPORT. Transactions of the port (O31, O34, O39, O43): misaligned ones, what the BUSY window hides from a read, the
lanes of a `BUF` word in both directions, and that no read has a side effect. -/

namespace Sys2Proof.Machine

/-! The response of a transaction (R64, R230) -/

/-- In reset a read is not performed (R230). -/
theorem step_read_inReset {s : State} {off : BitVec 16} {rest : List Event} (ha : s.agenda = .hostRead off :: rest)
    (hr : s.rstN = false) : step s = .next (s.withAgenda rest).noResponse := by
  simp [step_cons ha, runEvent, hr]

theorem hostRead_misaligned {off : BitVec 16} (h : off.toNat % 4 ≠ 0) (s : State) :
    hostRead off s = .next (s.respond (.read false 0#32)) := if_pos h

theorem hostWrite_misaligned {off : BitVec 16} (h : off.toNat % 4 ≠ 0) (v : Word) (s : State) :
    hostWrite off v s = .next (s.respond (.write false)) := if_pos h

/-- An aligned write gets the response ok, also one that is dropped or ignored (R64, R207). -/
theorem WritesTo.resp_of_aligned {s t : State} {off : BitVec 16} {v : Word} (h : WritesTo s off v t)
    (halign : off.toNat % 4 = 0) : t.resp = some (.write true) := by
  cases h with
  | misaligned hne => exact absurd halign hne
  | _ => rfl

/-! Inside the BUSY window (R175) -/

/-- Inside the BUSY window the value of a register does not depend on what `BUF`, `CV` and `RK` hold. -/
theorem readReg_busy_hides {s : State} (hb : s.busy = true) (x : Reg) (m : Memory) (c : Block) (r : Vector Quad 60) :
    readReg x { s with buf := m, cv := c, rk := r } = readReg x s := by
  cases x with
  | cv _ | rk _ | buf _ => exact (if_pos hb).trans (if_pos hb).symm
  | _ => rfl

/-- Inside the BUSY window every register has a value to read. -/
theorem readReg_busy_ok {s : State} (hb : s.busy = true) (x : Reg) : ∃ w, readReg x s = .ok w := by
  cases hx : readReg x s with
  | ok w => exact ⟨w, rfl⟩
  | error e => exact absurd ((readReg_error hx).1.symm.trans hb) nofun

/-- Inside the BUSY window a read at any offset answers, and the same whatever `BUF`, `CV` and `RK` hold. -/
theorem hostRead_busy {s : State} (hb : s.busy = true) (off : BitVec 16) :
    ∃ q, ∀ m c r, hostRead off { s with buf := m, cv := c, rk := r } =
      .next { s with buf := m, cv := c, rk := r, resp := some q } := by
  by_cases halign : off.toNat % 4 = 0
  · obtain ⟨w, hw⟩ := readReg_busy_ok hb (regAt s.params.bufBytes off.toNat)
    refine ⟨.read true w, fun m c r => ?_⟩
    rw [hostRead, if_neg (not_not_intro halign), readReg_busy_hides hb, hw]
    rfl
  · exact ⟨.read false 0#32, fun _ _ _ => hostRead_misaligned halign _⟩

/-! The lanes of a `BUF` word (R65) -/

theorem quad_bytes_ofBytes (l : List Byte) (h : l.length = 4) : (Quad.ofBytes l).bytes = l := by
  match l, h with
  | [_, _, _, _], _ => rfl

theorem wordLanes_bytes_getElem? (v : Word) {j : Nat} (hj : j < 4) :
    (wordLanes v).bytes[j]? = some (v.extractLsb' (8 * j) 8) := by
  interval_cases j <;> rfl

/-- Where its four bytes hold values, a word of `BUF` reads, and its lanes are those bytes. -/
theorem readBufWord_of_readable {s : State} {n : Nat} (h : s.readable (4 * n) 4) :
    ∃ w, readBufWord s n = .ok w ∧ ∀ j < 4, s.bufByte? (4 * n + j) = some (w.extractLsb' (8 * j) 8) := by
  rcases memRead_cases s.params.bufBytes s.buf (4 * n) 4 with ⟨l, hl, hlen, hbytes⟩ | ⟨o, -, hlo, hhi, ho, -⟩
  · refine ⟨laneWord (Quad.ofBytes l), by simp [readBufWord, hl], fun j hj => ?_⟩
    rw [laneWord_lane _ hj, quad_bytes_ofBytes l hlen]
    exact (hbytes j hj).trans (by simp [hlen, hj])
  · exact absurd (h o hlo hhi) (by simp [State.bufByte?, ho])

/-- The bytes of `BUF` after a word is written. -/
theorem State.bufByte?_setBufWord (s : State) {n : Nat} (hn : 4 * n < s.params.bufBytes) (v : Word) (o : Nat) :
    (s.setBufWord n v).bufByte? o =
      if 4 * n ≤ o ∧ o < 4 * n + 4 then some (v.extractLsb' (8 * (o - 4 * n)) 8) else s.bufByte? o := by
  have hsize := params_bufBytes_mod s.params
  refine (byteAt?_memWrite s.params.bufBytes s.buf (4 * n) (wordLanes v).bytes o).trans ?_
  rw [quad_bytes_length]
  by_cases ho : 4 * n ≤ o ∧ o < 4 * n + 4
  · rw [if_pos ⟨by omega, ho⟩, if_pos ho, wordLanes_bytes_getElem? v (by omega)]
  · rw [if_neg fun hin => ho hin.2, if_neg ho]; rfl

/-! The obligations -/

/-- Settles O34: outside reset the BUSY window hides the three, and in reset no read gets a response. -/
theorem busyWindowReadsRevealNothing : Obligations.BusyWindowReadsRevealNothing := by
  intro s off rest m c r ha hb
  by_cases hr : s.rstN = true
  · obtain ⟨q, hq⟩ := hostRead_busy (s := s.withAgenda rest) hb off
    exact ⟨_, _, (step_read ha hr).trans (hq s.buf s.cv s.rk),
      (step_read (s := { s with buf := m, cv := c, rk := r }) ha hr).trans (hq m c r), rfl⟩
  · have hr : s.rstN = false := Bool.eq_false_iff.mpr hr
    exact ⟨_, _, step_read_inReset ha hr,
      step_read_inReset (s := { s with buf := m, cv := c, rk := r }) ha hr, rfl⟩

/-- Settles O39. -/
theorem bufWindowLanes : Obligations.BufWindowLanes := by
  intro s off v rest n hr hb hoff hn
  refine ⟨fun ha hread => ?_, fun ha => ?_⟩
  · obtain ⟨w, hw, hlanes⟩ := readBufWord_of_readable (s := s.withAgenda rest) hread
    exact ⟨w, step_read_register (.buf n) ha hr (by omega) ⟨hoff, hn⟩ (by simp [readReg, hb, hw]), hlanes⟩
  · have hbyte := State.bufByte?_setBufWord { s with agenda := rest, resp := some (.write true) } hn v
    refine ⟨_, step_write_register (.buf n) ha hr hb (by omega) ⟨hoff, hn⟩, rfl, fun j hj => ?_, fun o ho => ?_⟩
    · rw [hbyte, if_pos (by omega), Nat.add_sub_cancel_left]
    · rw [hbyte, if_neg ho]; rfl

/-- Settles O43: the step of a read performs it or, in reset, gives no response. -/
theorem readsHaveNoSideEffect : Obligations.ReadsHaveNoSideEffect := by
  intro s t off rest ha h
  cases stepsTo_of_step h with
  | read _ _ _ ha' _ | noResponse _ _ ha' _ => cases ha.symm.trans ha'; rfl
  | completed _ _ _ ha' _ _ _ _ => exact absurd ha' (by simp [ha])
  | asserted _ ha' | released _ ha' | passed _ ha' _ | waits ha' _ | written _ _ _ _ ha' _ _ =>
    cases ha.symm.trans ha'

/-- Settles O31. -/
theorem misalignedTransactionsOnlyError : Obligations.MisalignedTransactionsOnlyError := by
  intro s off v rest hr
  refine ⟨fun hmis ha => (step_read ha hr).trans (hostRead_misaligned hmis _),
    fun hmis ha => (step_write ha hr).trans (hostWrite_misaligned hmis v _), fun halign ha t h => ?_,
    fun halign ha => ?_⟩
  · rw [step_read ha hr] at h
    rcases hostRead_cases off (s.withAgenda rest) with ⟨hmis, -⟩ | ⟨-, ⟨w, -, he⟩ | ⟨e, -, he⟩⟩
    · exact absurd halign hmis
    · cases he.symm.trans h
      exact ⟨w, rfl⟩
    · cases he.symm.trans h
  · obtain ⟨t, he, hw⟩ := hostWrite_writesTo off v (s.withAgenda rest)
    exact ⟨t, (step_write ha hr).trans he, hw.resp_of_aligned halign⟩

end Sys2Proof.Machine
end

section
/-! SUPPORT. The encoding (O1, O2): a word is its three fields, so it decodes to the legal command it encodes, and the
rows of R99 are the legal commands with their encodings. -/

namespace Sys2Proof.Machine

/-! The fields of a command word (R90) -/

theorem opField_encode (i : Instr) : opField (encode i) = i.opcode :=
  BitVec.extractLsb'_append_eq_right

theorem ksField_encode (i : Instr) : ksField (encode i) = i.ksBits :=
  (BitVec.extractLsb'_append_eq_of_le (le_refl 4)).trans BitVec.extractLsb'_append_eq_right

theorem rsvField_encode (i : Instr) : rsvField (encode i) = 0#26 :=
  (BitVec.extractLsb'_append_eq_of_le (by decide : 4 ≤ 6)).trans BitVec.extractLsb'_append_eq_left

/-- A word is its three fields, the highest first. -/
theorem append_fields (w : Word) : rsvField w ++ ksField w ++ opField w = w := by
  have hhigh : rsvField w ++ ksField w = w.extractLsb' 4 28 :=
    BitVec.extractLsb'_append_extractLsb'_eq_extractLsb' rfl
  rw [hhigh]
  exact BitVec.extractLsb'_append_extractLsb' (w := 28)

/-- A word is a command's encoding exactly when its fields are the command's and its reserved bits are zero. -/
theorem encode_eq_iff (i : Instr) (w : Word) :
    encode i = w ↔ i.opcode = opField w ∧ i.ksBits = ksField w ∧ rsvField w = 0#26 := by
  constructor
  · rintro rfl
    exact ⟨(opField_encode i).symm, (ksField_encode i).symm, rsvField_encode i⟩
  · rintro ⟨hop, hks, hrsv⟩
    rw [encode, hop, hks, ← hrsv, append_fields]

/-- Conversely to `decode_ok`, a word whose fields are those of a legal command decodes to it (R97). -/
theorem decode_ok_iff (w : Word) (i : Instr) :
    decode w = .ok i ↔
      i.wellFormed = true ∧ i.opcode = opField w ∧ i.ksBits = ksField w ∧ rsvField w = 0#26 := by
  refine ⟨decode_ok, fun ⟨hwf, hop, hks, hrsv⟩ => ?_⟩
  rw [decode, if_neg (not_not_intro hrsv)]
  exact (decodeFields_ok_iff _ _ _).mpr ⟨hwf, hop, hks⟩

/-! The words rejected (R97, R99) -/

/-- The fields rejected for their key size are those of a key load with the reserved `KS` value. -/
theorem decodeFields_badKeySize_iff (op : BitVec 4) (ks : BitVec 2) :
    decodeFields op ks = .error .badKeySize ↔ (0x1#4 = op ∨ 0x2#4 = op) ∧ 0b11#2 = ks := by
  revert op ks
  decide

theorem decodeFields_error {op : BitVec 4} {ks : BitVec 2} {e : CmdError} (h : decodeFields op ks = .error e) :
    e = .badKeySize ∨ e = .illegalCmd := by
  unfold decodeFields at h
  split at h
  · exact .inr (Except.error.inj h).symm
  · split at h <;> split at h <;> cases h
    · exact .inl rfl
    · exact .inr rfl

/-- The two words rejected for their key size are the encodings of the ill-formed key loads. -/
theorem decode_badKeySize_iff (w : Word) :
    decode w = .error .badKeySize ↔ encode (.initKey 0b11#2) = w ∨ encode (.initKeyIv 0b11#2) = w := by
  rw [encode_eq_iff, encode_eq_iff, decode]
  by_cases hrsv : rsvField w = 0#26
  · simp [hrsv, decodeFields_badKeySize_iff, Instr.opcode, Instr.ksBits, or_and_right]
  · simp [hrsv]

theorem decode_error {w : Word} {e : CmdError} (h : decode w = .error e) : e = .badKeySize ∨ e = .illegalCmd := by
  unfold decode at h
  split at h
  · exact .inr (Except.error.inj h).symm
  · exact decodeFields_error h

/-! The legal commands (R93, R99) -/

/-- The commands of the twelve legal words, in the order of R99. -/
def legalCommands : List Instr :=
  [.initKey 0b00#2, .initKey 0b01#2, .initKey 0b10#2, .initKeyIv 0b00#2, .initKeyIv 0b01#2, .initKeyIv 0b10#2,
   .setIv, .ecbEnc, .ecbDec, .cbcEnc, .cbcDec, .ctrXcrypt]

theorem mem_legalCommands_iff (i : Instr) : i ∈ legalCommands ↔ i.wellFormed = true := by
  cases i with
  | initKey ks | initKeyIv ks => revert ks; decide
  | _ => decide

/-- The rows of R99 are the legal commands with their encodings. -/
theorem mem_legalRows_iff (w : Word) (i : Instr) :
    (w, i) ∈ legalCommands.map (fun j => (encode j, j)) ↔ i.wellFormed = true ∧ encode i = w := by
  simp [← mem_legalCommands_iff, and_comm]

/-! The obligations -/

/-- Settles O2: both sides say that `w` has the fields of `i`, and that `i` is well formed. -/
theorem decodeAndEncodeAgree : Obligations.DecodeAndEncodeAgree := by
  intro w i
  rw [decode_ok_iff, encode_eq_iff]

/-- Settles O1: by O2 the legal words are the encodings of the legal commands. -/
theorem decodeFollowsTheLegalWords : Obligations.DecodeFollowsTheLegalWords := fun w =>
  ⟨fun i => (decodeAndEncodeAgree w i).trans (mem_legalRows_iff w i).symm,
    (decode_badKeySize_iff w).trans (or_congr eq_comm eq_comm), fun _ => decode_error⟩

end Sys2Proof.Machine
end

section
/-! SUPPORT. The key scheduler (O6 to O9): every word that the expansion adds is the one of R115, the round-key store holds
the expansion and then zero words, and the second `DONE` of two completions adds nothing to the first. -/

namespace Sys2Proof.Machine

/-! Words of a list -/

theorem getElem?_eq_some_wordAt {ws : List Quad} {i : Nat} (h : i < ws.length) : ws[i]? = some (wordAt ws i) := by
  simp [wordAt, h]

/-- A word already there stays where it is when words are added after it. -/
theorem getElem?_of_prefix {ws r : List Quad} (h : ws <+: r) {i : Nat} (hi : i < ws.length) : r[i]? = ws[i]? := by
  obtain ⟨t, rfl⟩ := h
  exact List.getElem?_append_left hi

theorem wordAt_of_prefix {ws r : List Quad} (h : ws <+: r) {i : Nat} (hi : i < ws.length) :
    wordAt r i = wordAt ws i := by
  simp only [wordAt, List.getD_eq_getElem?_getD, getElem?_of_prefix h hi]

/-! The key expansion is its recurrence (R114, R115) -/

theorem prefix_extendWords (p : Params) (nk n : Nat) (ws : List Quad) : ws <+: extendWords p nk n ws := by
  induction n generalizing ws with
  | zero => exact List.prefix_rfl
  | succ n ih => exact (List.prefix_append ws _).trans (ih _)

/-- The recurrence of R115 for the words past those at hand, by induction on the words to add: the next one is `nextWord`,
and it reads words that do not change any more. -/
theorem wordAt_extendWords (p : Params) {nk n i : Nat} {ws : List Quad} (hnk : 0 < nk) (hws : nk ≤ ws.length)
    (h : ws.length ≤ i) (hi : i < ws.length + n) :
    wordAt (extendWords p nk n ws) i =
      (wordAt (extendWords p nk n ws) (i - nk)).xor
        (scheduleTemp p nk i (wordAt (extendWords p nk n ws) (i - 1))) := by
  induction n generalizing ws with
  | zero => omega
  | succ n ih =>
    have hlen : (ws ++ [nextWord p nk ws]).length = ws.length + 1 := List.length_append
    rcases h.eq_or_lt with rfl | hlt
    · have hpre := prefix_extendWords p nk (n + 1) ws
      have hnext : wordAt (extendWords p nk (n + 1) ws) ws.length = nextWord p nk ws := by
        rw [extendWords, wordAt_of_prefix (prefix_extendWords p nk n _) (by omega)]
        simp [wordAt]
      rw [hnext, nextWord, wordAt_of_prefix hpre (by omega), wordAt_of_prefix hpre (by omega)]
    · exact ih (by omega) (by omega) (by omega)

/-- What R115 adds to `word[i - Nk]`, byte by byte. -/
theorem scheduleTemp_eq (p : Params) (nk i : Nat) (prev : Quad) :
    scheduleTemp p nk i prev =
      if i % nk = 0 then
        ⟨p.sboxFn prev.b1 ^^^ rcon.getD (i / nk) 0#8, p.sboxFn prev.b2, p.sboxFn prev.b3, p.sboxFn prev.b0⟩
      else if nk = 8 ∧ i % nk = 4 then
        ⟨p.sboxFn prev.b0, p.sboxFn prev.b1, p.sboxFn prev.b2, p.sboxFn prev.b3⟩
      else prev := rfl

/-- A row of a table over the three key sizes (R110) is the row of one of them. -/
theorem keySize_of_row {α : Type} (f : KeySize → α) {x : α} (h : x ∈ [f .k128, f .k192, f .k256]) :
    ∃ k, f k = x := by
  obtain ⟨k, -, hk⟩ := List.mem_map.mp (show x ∈ [KeySize.k128, .k192, .k256].map f from h)
  exact ⟨k, hk⟩

theorem keySize_nk_pos (k : KeySize) : 0 < k.nk := by cases k <;> decide

/-! The round-key store (R118) -/

@[simp] theorem getElem_roundKeyStore (ws : List Quad) (i : Nat) (h : i < 60) :
    (roundKeyStore ws)[i] = wordAt ws i := by
  simp [roundKeyStore]

/-- A key load fills the store with the expansion of the staged key. -/
theorem loadKey_rk_expansion (s : State) (k : KeySize) (i : Nat) (h : i < 60) (hi : i < 4 * (k.nr + 1)) :
    (keyExpansion s.params k (s.keyWords k))[i]? = some (s.loadKey k).rk[i] := by
  have hlen := keyExpansion_length s.params k (keyWords_length s k)
  simp [getElem?_eq_some_wordAt (hlen ▸ hi)]

/-- It clears the words past the expansion. -/
theorem loadKey_rk_tail (s : State) (k : KeySize) (i : Nat) (h : i < 60) (hi : 4 * (k.nr + 1) ≤ i) :
    (s.loadKey k).rk[i] = zeroQuad := by
  have hlen := keyExpansion_length s.params k (keyWords_length s k)
  have htail : rkWord (s.loadKey k).rk i = zeroQuad := rkWord_roundKeyStore_tail (hlen ▸ hi) h
  simpa [rkWord, h] using htail

/-! The completions of the loads (R171, R176) -/

theorem exec_initKey_busy {s : State} (h : s.busy = true) (k : KeySize) :
    exec (.initKey k.bits) s = .next (s.loadKey k).finish :=
  exec_busy_next h (by simp [effectOf])

theorem exec_initKeyIv_busy {s : State} (h : s.busy = true) (k : KeySize) :
    exec (.initKeyIv k.bits) s = .next (s.loadKey k).loadIv.finish :=
  exec_busy_next h (by simp [effectOf])

theorem exec_setIv_busy {s : State} (h : s.busy = true) : exec .setIv s = .next s.loadIv.finish :=
  exec_busy_next h rfl

/-- An IV load that follows a completion: the first end has set `DONE` already, and nothing else is left of it. -/
theorem loadIv_finish_after_finish (s : State) :
    ({ s.finish with busy := true } : State).loadIv.finish = s.loadIv.finish := by
  simp [State.finish, State.loadIv, State.ivBytes, BitVec.or_assoc]

/-! The obligations -/

/-- Settles O6: the key is a prefix of the expansion, and the words after it follow the recurrence. -/
theorem keyExpansionFollowsTheRecurrence : Obligations.KeyExpansionFollowsTheRecurrence := by
  intro p k nk nr key hrow hkey
  obtain ⟨k, hk⟩ := keySize_of_row (fun k => (k, k.nk, k.nr)) hrow
  cases hk
  have hlen := keyExpansion_length p k hkey
  have hpos := keySize_nk_pos k
  refine ⟨hlen, fun i hi => ?_, fun i hnk hi => ⟨_, _, getElem?_eq_some_wordAt (by omega),
    getElem?_eq_some_wordAt (by omega), ?_⟩⟩
  · exact getElem?_of_prefix (prefix_extendWords ..) (hkey ▸ hi)
  · rw [getElem?_eq_some_wordAt (hlen ▸ hi), ← scheduleTemp_eq]
    exact congrArg some (wordAt_extendWords p hpos hkey.ge (hkey ▸ hnk) (by omega))

/-- Settles O7. -/
theorem initKeyCompletes : Obligations.InitKeyCompletes := by
  intro ks k nk nr s hrow hb
  obtain ⟨k, hk⟩ := keySize_of_row (fun k => (k.bits, k, k.nk, k.nr)) hrow
  cases hk
  exact ⟨_, exec_initKey_busy hb k, rfl, loadKey_rk_expansion s k, loadKey_rk_tail s k⟩

/-- Settles O8: the IV load leaves the round keys of the key load. -/
theorem initKeyIvCompletes : Obligations.InitKeyIvCompletes := by
  intro ks k nk nr s hrow hb
  obtain ⟨k, hk⟩ := keySize_of_row (fun k => (k.bits, k, k.nk, k.nr)) hrow
  cases hk
  exact ⟨_, exec_initKeyIv_busy hb k, rfl, loadKey_rk_expansion s k, loadKey_rk_tail s k⟩

/-- Settles O9. -/
theorem initKeyIvIsInitKeyThenSetIv : Obligations.InitKeyIvIsInitKeyThenSetIv := by
  intro ks s hks hb
  rcases keySize_ofBits?_cases ks with ⟨k, -, rfl⟩ | ⟨-, hill⟩
  · refine ⟨_, _, exec_initKey_busy hb k, exec_setIv_busy rfl, ?_⟩
    rw [loadIv_finish_after_finish, exec_initKeyIv_busy hb k]
  · exact absurd (by simpa [keySizeLegal] using hill) hks

end Sys2Proof.Machine
end

section
/-! SUPPORT. The round primitives (O12 to O14, O16 to O18): the tables and their inverses (R132, R133, R135), `mul` and
the two column mixes (R140 to R142), and each primitive byte by byte and undone by its inverse (R136 to R145). -/

namespace Sys2Proof.Machine

/-! Tables and their inverses (R130 to R135) -/

theorem mem_allBytes (v : Byte) : v ∈ allBytes :=
  List.mem_map.mpr ⟨v.toNat, List.mem_range.mpr v.isLt, by simp⟩

/-- The entry of row `i` and column `j` is looked up at the byte with these nibbles (R130). -/
theorem table_look_append (t : Table) {i j : Nat} (hi : i < 16) (hj : j < 16) :
    t.look (BitVec.ofNat 4 i ++ BitVec.ofNat 4 j) = t[i][j] := by
  have hrow : (BitVec.ofNat 4 i ++ BitVec.ofNat 4 j).extractLsb' 4 4 = BitVec.ofNat 4 i :=
    (BitVec.extractLsb'_append_eq_of_le (le_refl 4)).trans BitVec.extractLsb'_eq_self
  have hcol : (BitVec.ofNat 4 i ++ BitVec.ofNat 4 j).extractLsb' 0 4 = BitVec.ofNat 4 j :=
    BitVec.extractLsb'_append_eq_right
  simp [Table.look, hrow, hcol, Nat.mod_eq_of_lt hi, Nat.mod_eq_of_lt hj]

/-- Every byte is an entry of a table that is a permutation (R135). -/
theorem table_look_surjective {t : Table} (h : t.isPerm = true) : Function.Surjective t.look := by
  intro w
  have hw : w ∈ t.toList.flatMap (·.toList) := by
    simpa using List.all_eq_true.mp h w (mem_allBytes w)
  obtain ⟨row, hrow, hw⟩ := List.mem_flatMap.mp hw
  obtain ⟨i, hi, rfl⟩ := List.getElem_of_mem hrow
  obtain ⟨j, hj, rfl⟩ := List.getElem_of_mem hw
  rw [Vector.length_toList] at hi hj
  exact ⟨_, by simpa using table_look_append t hi hj⟩

/-- The byte that `SBox.inv` finds is one whose entry is `w`, and there is one. -/
theorem sbox_look_inv (t : SBox) : Function.LeftInverse t.table.look t.inv := by
  intro w
  obtain ⟨v, hv⟩ := table_look_surjective t.perm w
  unfold SBox.inv
  cases hf : allBytes.find? fun v => t.table.look v == w with
  | none => exact absurd (List.find?_eq_none.mp hf v (mem_allBytes v)) (by simp [hv])
  | some u => simpa using List.find?_some hf

/-- On finitely many bytes the inverse of one order is the inverse of the other. -/
theorem sbox_inv_look (t : SBox) : Function.LeftInverse t.inv t.table.look :=
  (sbox_look_inv t).rightInverse_of_card_le le_rfl

/-- The printed standard tables are inverse to each other (R131, R132): the 256 entries one by one. -/
theorem stdIsbox_look_stdSbox : ∀ v, stdIsbox.look (stdSbox.look v) = v := by
  decide +kernel

theorem isboxFn_sboxFn (p : Params) : Function.LeftInverse p.isboxFn p.sboxFn := by
  intro v
  unfold Params.isboxFn Params.sboxFn
  cases p.sbox with
  | standard => exact stdIsbox_look_stdSbox v
  | experimental t => exact sbox_inv_look t v

theorem sboxFn_isboxFn (p : Params) : Function.LeftInverse p.sboxFn p.isboxFn :=
  (isboxFn_sboxFn p).rightInverse_of_card_le le_rfl

/-! `double` and `mul` (R140) -/

theorem double_toNat (b : Byte) :
    (double b).toNat = ((b.toNat * 2) ^^^ (if 128 ≤ b.toNat then 0x1b else 0x00)) % 256 := by
  have hbit : b.getLsbD 7 = decide (128 ≤ b.toNat) := b.msb_eq_decide
  rw [double, hbit, show 256 = 2 ^ 8 from rfl, Nat.xor_mod_two_pow, BitVec.toNat_xor, BitVec.toNat_shiftLeft,
    Nat.shiftLeft_eq]
  by_cases h : 128 ≤ b.toNat <;> simp [h]

/-- Doubling is linear over XOR: the reduction by `0x1b` depends on one bit only. -/
theorem double_xor (a b : Byte) : double (a ^^^ b) = double a ^^^ double b := by
  have hreduce : ∀ c d : Bool, (if c ^^ d then 0x1b#8 else 0x00#8) =
      (if c then 0x1b#8 else 0x00#8) ^^^ (if d then 0x1b#8 else 0x00#8) := by decide
  simp only [double, BitVec.shiftLeft_xor_distrib, BitVec.getLsbD_xor, hreduce]
  ac_rfl

theorem ite_xor_eq_xor_ite (c : Bool) (a d : Byte) : (if c then a ^^^ d else a) = a ^^^ (if c then d else 0#8) := by
  cases c <;> simp

/-- The loop of `mul` adds up the doublings that the bits of the constant let through. -/
theorem mul_eq_gated_sum (b c : Byte) : mul b c =
    (if c.getLsbD 0 then b else 0#8) ^^^ (if c.getLsbD 1 then double b else 0#8) ^^^
    (if c.getLsbD 2 then double (double b) else 0#8) ^^^ (if c.getLsbD 3 then double (double (double b)) else 0#8) ^^^
    (if c.getLsbD 4 then double (double (double (double b))) else 0#8) := by
  simp only [mul, mulBits, ite_xor_eq_xor_ite, BitVec.zero_xor]

/-! The column mixes (R141, R142) -/

/-- The multiples that the matrices use, as sums of doublings. -/
theorem mul_matrix_constants (b : Byte) :
    mul b 0x02#8 = double b ∧ mul b 0x03#8 = b ^^^ double b ∧
    mul b 0x09#8 = b ^^^ double (double (double b)) ∧ mul b 0x0b#8 = b ^^^ double b ^^^ double (double (double b)) ∧
    mul b 0x0d#8 = b ^^^ double (double b) ^^^ double (double (double b)) ∧
    mul b 0x0e#8 = double b ^^^ double (double b) ^^^ double (double (double b)) := by
  simp [mul_eq_gated_sum]

theorem byte_xor_xor_cancel (a b : Byte) : a ^^^ (a ^^^ b) = b := by
  rw [← BitVec.xor_assoc, BitVec.xor_self, BitVec.zero_xor]

/-- The two matrices are inverse as polynomials already: with every product written as a sum of doublings, the terms of
each byte but one cancel in pairs, and no reduction is needed. -/
theorem columnMixes_inverse (a : Quad) : invMixColumn (mixColumn a) = a ∧ mixColumn (invMixColumn a) = a := by
  constructor <;>
    · simp only [mixColumn, invMixColumn, mul_matrix_constants, double_xor]
      ac_nf
      simp only [byte_xor_xor_cancel, BitVec.xor_self, BitVec.xor_zero]

/-- Row `r` of each matrix is its row 0 turned right by `r`. -/
theorem columnMixes_byte (a : Quad) {r : Nat} (hr : r < 4) :
    (mixColumn a).bytes.getD r 0#8 =
      mul (a.bytes.getD ((r + 0) % 4) 0#8) 0x02#8 ^^^ mul (a.bytes.getD ((r + 1) % 4) 0#8) 0x03#8 ^^^
        a.bytes.getD ((r + 2) % 4) 0#8 ^^^ a.bytes.getD ((r + 3) % 4) 0#8 ∧
    (invMixColumn a).bytes.getD r 0#8 =
      mul (a.bytes.getD ((r + 0) % 4) 0#8) 0x0e#8 ^^^ mul (a.bytes.getD ((r + 1) % 4) 0#8) 0x0b#8 ^^^
        mul (a.bytes.getD ((r + 2) % 4) 0#8) 0x0d#8 ^^^ mul (a.bytes.getD ((r + 3) % 4) 0#8) 0x09#8 := by
  interval_cases r
  · exact ⟨rfl, rfl⟩
  all_goals
    simp only [mixColumn, invMixColumn, Quad.bytes, List.getD_cons_zero, List.getD_cons_succ, Nat.reduceAdd,
      Nat.reduceMod]
    constructor <;> ac_rfl

theorem mixColumns_col (b : Block) (c : Fin 4) : (mixColumns b).col c = mixColumn (b.col c) := by
  fin_cases c <;> rfl

theorem invMixColumns_col (b : Block) (c : Fin 4) : (invMixColumns b).col c = invMixColumn (b.col c) := by
  fin_cases c <;> rfl

/-! A byte of a block (R9, R11) -/

theorem block_map_byte (f : Byte → Byte) (b : Block) {k : Nat} (hk : k < 16) : (b.map f).byte k = f (b.byte k) := by
  interval_cases k <;> rfl

theorem block_xor_byte (b c : Block) {k : Nat} (hk : k < 16) : (b.xor c).byte k = b.byte k ^^^ c.byte k := by
  interval_cases k <;> rfl

theorem roundKey_col (rk : Vector Quad 60) (r : Nat) (c : Fin 4) : (roundKey rk r).col c = rkWord rk (4 * r + c) := by
  fin_cases c <;> rfl

/-- The bytes of words in a row: byte `j` of word `i` is byte `4i + j` (R12). -/
theorem flatMap_bytes_getElem? (ws : List Quad) (i : Nat) {j : Nat} (hj : j < 4) :
    (ws.flatMap Quad.bytes)[4 * i + j]? = ws[i]?.bind (·.bytes[j]?) := by
  induction ws generalizing i with
  | nil => rfl
  | cons w ws ih =>
    rw [List.flatMap_cons]
    cases i with
    | zero => rw [List.getElem?_append_left (by simpa using hj)]; simp
    | succ i =>
      rw [List.getElem?_append_right (by rw [quad_bytes_length]; omega), quad_bytes_length,
        show 4 * (i + 1) + j - 4 = 4 * i + j by omega, ih, List.getElem?_cons_succ]

/-- Byte `k` of round key `r` is byte `16r + k` of `RK` (R40). -/
theorem roundKey_byte (rk : Vector Quad 60) {r k : Nat} (hr : r < 15) (hk : k < 16) :
    (roundKey rk r).byte k = (rk.toList.flatMap Quad.bytes).getD (16 * r + k) 0#8 := by
  obtain ⟨c, j, hj, rfl⟩ : ∃ (c : Fin 4) (j : Nat), j < 4 ∧ 4 * c + j = k :=
    ⟨⟨k / 4, by omega⟩, k % 4, by omega, Nat.div_add_mod k 4⟩
  have hword : 4 * r + c < 60 := by omega
  rw [block_col_byte _ _ hj, roundKey_col, show 16 * r + (4 * c + j) = 4 * (4 * r + c) + j by omega,
    List.getD_eq_getElem?_getD, List.getD_eq_getElem?_getD, flatMap_bytes_getElem? _ _ hj]
  simp [rkWord, hword]

/-! The primitives and their inverses (R136 to R145) -/

theorem block_map_map_cancel {f g : Byte → Byte} (h : Function.LeftInverse f g) (b : Block) : (b.map g).map f = b := by
  simp [Block.map, Quad.map, h _]

@[simp] theorem invSubBytes_subBytes (p : Params) (b : Block) : invSubBytes p (subBytes p b) = b :=
  block_map_map_cancel (isboxFn_sboxFn p) b

@[simp] theorem subBytes_invSubBytes (p : Params) (b : Block) : subBytes p (invSubBytes p b) = b :=
  block_map_map_cancel (sboxFn_isboxFn p) b

@[simp] theorem invShiftRows_shiftRows (b : Block) : invShiftRows (shiftRows b) = b := rfl

@[simp] theorem shiftRows_invShiftRows (b : Block) : shiftRows (invShiftRows b) = b := rfl

theorem invMixColumns_mixColumns (b : Block) : invMixColumns (mixColumns b) = b := by
  simp [mixColumns, invMixColumns, columnMixes_inverse]

theorem mixColumns_invMixColumns (b : Block) : mixColumns (invMixColumns b) = b := by
  simp [mixColumns, invMixColumns, columnMixes_inverse]

@[simp] theorem invMix_mix (p : Params) (b : Block) : invMix p (mix p b) = b := by
  unfold invMix mix
  cases p.mix with
  | mds => exact invMixColumns_mixColumns b
  | altSub t => exact block_map_map_cancel (sbox_inv_look t) b

@[simp] theorem mix_invMix (p : Params) (b : Block) : mix p (invMix p b) = b := by
  unfold invMix mix
  cases p.mix with
  | mds => exact mixColumns_invMixColumns b
  | altSub t => exact block_map_map_cancel (sbox_look_inv t) b

@[simp] theorem addRoundKey_addRoundKey (rk : Vector Quad 60) (b : Block) (r : Nat) :
    addRoundKey rk (addRoundKey rk b r) r = b := by
  simp [addRoundKey, Block.xor, Quad.xor]

/-! The obligations -/

/-- Settles O12. -/
theorem roundPrimitivesHaveInverses : Obligations.RoundPrimitivesHaveInverses := fun p rk r b =>
  ⟨⟨invSubBytes_subBytes p b, subBytes_invSubBytes p b⟩, ⟨invShiftRows_shiftRows b, shiftRows_invShiftRows b⟩,
    ⟨invMixColumns_mixColumns b, mixColumns_invMixColumns b⟩, ⟨invMix_mix p b, mix_invMix p b⟩,
    addRoundKey_addRoundKey rk b r⟩

/-- Settles O17. -/
theorem inverseTablesInvert : Obligations.InverseTablesInvert :=
  ⟨fun p v => ⟨isboxFn_sboxFn p v, sboxFn_isboxFn p v⟩, fun t v => ⟨sbox_inv_look t v, sbox_look_inv t v⟩⟩

/-- Settles O13. -/
theorem roundPrimitivesByByte : Obligations.RoundPrimitivesByByte := by
  refine fun p rk b => ⟨fun k hk => block_map_byte _ b hk, fun k hk => block_map_byte _ b hk,
    fun r hr c hc => ?_, fun r hr c hc => ?_, fun r hr k hk => ?_⟩
  · interval_cases r <;> interval_cases c <;> rfl
  · interval_cases r <;> interval_cases c <;> rfl
  · rw [addRoundKey, block_xor_byte _ _ hk, roundKey_byte rk hr hk]

/-- Settles O14. -/
theorem columnMixFollowsTheMatrices : Obligations.ColumnMixFollowsTheMatrices := by
  intro b r c hr hc a
  have hcol : ∀ (x : Block) {j : Nat}, j < 4 → x.byte (4 * c + j) = (x.col ⟨c, hc⟩).bytes.getD j 0#8 :=
    fun x _ hj => block_col_byte x ⟨c, hc⟩ hj
  have ha : ∀ k, a k = (b.col ⟨c, hc⟩).bytes.getD ((r + k) % 4) 0#8 := fun k => hcol b (by omega)
  rw [hcol _ hr, hcol _ hr, mixColumns_col, invMixColumns_col, ha, ha, ha, ha]
  exact columnMixes_byte _ hr

/-- Settles O16. -/
theorem mulIsTheGatedSumOfDoubles : Obligations.MulIsTheGatedSumOfDoubles :=
  ⟨double_toNat, mul_eq_gated_sum⟩

/-- Settles O18. -/
theorem mixFollowsMixMode : Obligations.MixFollowsMixMode := by
  refine fun p b => ⟨fun hp => ?_, fun t hp k hk => ?_⟩
  · simp only [mix, invMix, hp, and_self]
  · simp only [mix, invMix, hp]
    exact ⟨block_map_byte _ b hk, block_map_byte _ b hk⟩

end Sys2Proof.Machine
end

section
/-! SUPPORT. The two ciphers (O11, O15): each as a fold of its rounds (R146, R147), the round-key words that they read,
and the inverse property (R148), round by round. -/

namespace Sys2Proof.Machine

/-! The rounds as folds (R146, R147) -/

theorem cipherRounds_eq_foldl (p : Params) (rk : Vector Quad 60) (n r : Nat) (b : Block) :
    cipherRounds p rk n r b = (List.range' r n).foldl (cipherRound p rk) b := by
  induction n generalizing r b with
  | zero => rfl
  | succ n ih => exact ih _ _

theorem invCipherRounds_eq_foldl (p : Params) (rk : Vector Quad 60) (n : Nat) (b : Block) :
    invCipherRounds p rk n b = (List.range' 1 n).reverse.foldl (invCipherRound p rk) b := by
  induction n generalizing b with
  | zero => rfl
  | succ n ih => simp [invCipherRounds, ih, List.range'_concat, Nat.add_comm]

/-- The last full round comes after the others. -/
theorem cipherRounds_succ (p : Params) (rk : Vector Quad 60) (n : Nat) (b : Block) :
    cipherRounds p rk (n + 1) 1 b = cipherRound p rk (cipherRounds p rk n 1 b) (n + 1) := by
  simp [cipherRounds_eq_foldl, List.range'_concat, Nat.add_comm]

/-! The round keys that a cipher reads (R146, R147) -/

theorem roundKey_congr {rk rk' : Vector Quad 60} {nr r : Nat}
    (h : ∀ (i : Nat) (_ : i < 60), i < 4 * (nr + 1) → rk[i] = rk'[i]) (hr : r ≤ nr) :
    roundKey rk r = roundKey rk' r := by
  have hword : ∀ i < 4 * (nr + 1), rkWord rk i = rkWord rk' i := fun i hi => by
    by_cases hlt : i < 60
    · simp [rkWord, hlt, h i hlt hi]
    · simp [rkWord, hlt]
  simp only [roundKey, hword _ (show 4 * r < _ by omega), hword _ (show 4 * r + 1 < _ by omega),
    hword _ (show 4 * r + 2 < _ by omega), hword _ (show 4 * r + 3 < _ by omega)]

/-- The ciphers read the round keys 0 to `Nr` and no other word of the store. -/
theorem ciphers_congr (p : Params) {rk rk' : Vector Quad 60} {nr : Nat}
    (h : ∀ r ≤ nr, roundKey rk r = roundKey rk' r) (b : Block) :
    cipherBlock p rk nr b = cipherBlock p rk' nr b ∧ invCipherBlock p rk nr b = invCipherBlock p rk' nr b := by
  have hadd : ∀ r ≤ nr, ∀ x, addRoundKey rk x r = addRoundKey rk' x r := fun r hr x => by
    rw [addRoundKey, addRoundKey, h r hr]
  have hrounds : ∀ x, cipherRounds p rk (nr - 1) 1 x = cipherRounds p rk' (nr - 1) 1 x := fun x => by
    rw [cipherRounds_eq_foldl, cipherRounds_eq_foldl]
    refine List.foldl_ext _ _ _ fun y r hr => hadd r ?_ _
    have := List.mem_range'_1.mp hr
    omega
  have hinvRounds : ∀ x, invCipherRounds p rk (nr - 1) x = invCipherRounds p rk' (nr - 1) x := fun x => by
    rw [invCipherRounds_eq_foldl, invCipherRounds_eq_foldl]
    refine List.foldl_ext _ _ _ fun y r hr => congrArg (invMix p) (hadd r ?_ _)
    have := List.mem_range'_1.mp (List.mem_reverse.mp hr)
    omega
  simp only [cipherBlock, invCipherBlock, hadd 0 (Nat.zero_le nr), hadd nr le_rfl, hrounds, hinvRounds, and_self]

/-! The inverse property (R148) -/

/-- What `InvCipher` holds before its round `r` is what `Cipher` held after the `ShiftRows` of its round `r + 1`, so the
round leads back to the `ShiftRows` before. -/
theorem invCipherRound_cipherRound (p : Params) (rk : Vector Quad 60) (b : Block) (r : Nat) :
    invCipherRound p rk (shiftRows (subBytes p (cipherRound p rk b r))) r = shiftRows (subBytes p b) := by
  simp [invCipherRound, cipherRound]

theorem cipherRound_invCipherRound (p : Params) (rk : Vector Quad 60) (b : Block) (r : Nat) :
    cipherRound p rk (invSubBytes p (invShiftRows (invCipherRound p rk b r))) r = invSubBytes p (invShiftRows b) := by
  simp [invCipherRound, cipherRound]

theorem invCipherRounds_cipherRounds (p : Params) (rk : Vector Quad 60) (n : Nat) (b : Block) :
    invCipherRounds p rk n (shiftRows (subBytes p (cipherRounds p rk n 1 b))) = shiftRows (subBytes p b) := by
  induction n with
  | zero => rfl
  | succ n ih => rw [cipherRounds_succ, invCipherRounds, invCipherRound_cipherRound, ih]

theorem cipherRounds_invCipherRounds (p : Params) (rk : Vector Quad 60) (n : Nat) (b : Block) :
    cipherRounds p rk n 1 (invSubBytes p (invShiftRows (invCipherRounds p rk n b))) =
      invSubBytes p (invShiftRows b) := by
  induction n generalizing b with
  | zero => rfl
  | succ n ih => rw [cipherRounds_succ, invCipherRounds, ih, cipherRound_invCipherRound]

theorem invCipherBlock_cipherBlock (p : Params) (rk : Vector Quad 60) (nr : Nat) (b : Block) :
    invCipherBlock p rk nr (cipherBlock p rk nr b) = b := by
  simp [invCipherBlock, cipherBlock, invCipherRounds_cipherRounds]

theorem cipherBlock_invCipherBlock (p : Params) (rk : Vector Quad 60) (nr : Nat) (b : Block) :
    cipherBlock p rk nr (invCipherBlock p rk nr b) = b := by
  simp [invCipherBlock, cipherBlock, cipherRounds_invCipherRounds]

/-! The obligations -/

/-- Settles O11. -/
theorem invCipherInvertsCipher : Obligations.InvCipherInvertsCipher := fun _ b =>
  ⟨invCipherBlock_cipherBlock _ _ _ b, cipherBlock_invCipherBlock _ _ _ b⟩

/-- Settles O15: the rounds are folds, and the round keys 0 to `Nr` are the words below `4(Nr + 1)`. -/
theorem cipherIsTheRoundSequence : Obligations.CipherIsTheRoundSequence := by
  refine ⟨fun s b nr hrow => ?_, fun s rk b h => ?_⟩
  · obtain ⟨k, hk⟩ := keySize_of_row (fun k => (k, k.nr)) hrow
    obtain ⟨hks, rfl⟩ := Prod.mk.inj hk
    have hrounds : (List.range (k.nr - 1)).map (· + 1) = List.range' 1 (k.nr - 1) := by
      rw [List.range'_eq_map_range]; simp [Nat.add_comm]
    intro forward backward rounds
    simp only [State.cipher, State.invCipher, cipherBlock, invCipherBlock, cipherRounds_eq_foldl,
      invCipherRounds_eq_foldl, ← hks, rounds, hrounds]
    exact ⟨rfl, rfl⟩
  · exact ciphers_congr s.params (fun r hr => roundKey_congr h hr) b

end Sys2Proof.Machine
end

section
/-! SUPPORT. The lifecycle of a command (O3 to O5, O10, O54, O55): its submission by a `CMD` write, with the checks of
R201 as one chain, its completion at the engine's turn, and what stops a step. -/

namespace Sys2Proof.Machine

/-! The submission (R170, R201, R202) -/

/-- The data commands are those of R201's `data`. -/
theorem mem_dataCommands_iff (i : Instr) :
    i ∈ [Instr.ecbEnc, .ecbDec, .cbcEnc, .cbcDec, .ctrXcrypt] ↔ isData i = true := by
  cases i <;> simp [isData]

/-- The chaining commands are those of R201's `chain`. -/
theorem mem_chainingCommands_iff (i : Instr) :
    i ∈ [Instr.cbcEnc, .cbcDec, .ctrXcrypt] ↔ isChaining i = true := by
  cases i <;> simp [isChaining]

/-- The submission of a legal command: the checks of R201 in their order, then acceptance. -/
theorem submitCommand_of_wellFormed {i : Instr} (hw : i.wellFormed = true) (s : State) :
    submitCommand i s =
      if isData i ∧ s.keyValid = false then s.reject .noKey
      else if isChaining i ∧ s.ivValid = false then s.reject .noIv
      else if isData i ∧ (s.addr.toNat % 16 ≠ 0 ∨ s.len.toNat % 16 ≠ 0) then s.reject .badAlign
      else if isData i ∧ s.addr.toNat + s.len.toNat > s.params.bufBytes then s.reject .badRange
      else s.accept i := by
  rw [submitCommand, checkCommand, if_neg (by simp [hw])]
  split_ifs <;> rfl

/-- A `CMD` write outside the BUSY window submits its word (R170). -/
theorem step_write_cmd {s : State} {w : Word} {rest : List Event}
    (ha : s.agenda = .hostWrite 0x0010#16 w :: rest) (hr : s.rstN = true) (hb : s.busy = false) :
    step s = submitWord w { s with agenda := rest, resp := some (.write true) } :=
  step_write_register .cmd ha hr hb rfl rfl

theorem submitWord_of_decode_ok {w : Word} {i : Instr} (h : decode w = .ok i) (s : State) :
    submitWord w s = exec i s := by
  rw [submitWord, h]

theorem submitWord_of_decode_error {w : Word} {e : CmdError} (h : decode w = .error e) (s : State) :
    submitWord w s = .next (s.reject e) := by
  rw [submitWord, h]

/-- `DONE` and `ERR` are the two bits that a rejection sets (R202). -/
theorem State.reject_eq (s : State) (e : CmdError) :
    s.reject e = { s with err := true, errCode := some e, intstat := s.intstat ||| 0b011#3 } := by
  rw [State.reject, BitVec.or_assoc]
  rfl

/-- The latch of an accepted command holds the fields of its word (R90, R170). -/
theorem State.accept_of_decode_ok {w : Word} {i : Instr} (h : decode w = .ok i) (s : State) :
    s.accept i = { s with err := false, errCode := none, busy := true,
                          lat := ⟨w.extractLsb' 0 4, w.extractLsb' 4 2, s.addr, s.len⟩ } := by
  obtain ⟨-, hop, hks, -⟩ := decode_ok h
  rw [State.accept, hop, hks]
  rfl

/-! The engine's turn (R171) -/

/-- In the BUSY window, outside reset, the engine's turn runs the latched command. -/
theorem runEvent_engine_busy {s : State} {i : Instr} (hr : s.rstN = true) (hb : s.busy = true)
    (hd : decodeFields s.lat.op s.lat.ks = .ok i) : runEvent .engine s = exec i s := by
  simp [runEvent, engineStep, hr, hb, hd]

/-- The completion of a legal command whose region holds values: it ends the BUSY window and sets `DONE`. -/
theorem exec_completes {i : Instr} {s : State} (hw : i.wellFormed = true) (hb : s.busy = true)
    (hread : isData i = true → s.readable s.regionStart (16 * s.blockCount)) :
    ∃ u, exec i s = .next (State.finish u) := by
  rcases effectOf_cases hw s with ⟨k, -, he⟩ | ⟨k, -, he⟩ | ⟨-, he⟩ | ⟨hi, ⟨m, c, he, -⟩ | ⟨o, -, hlo, hhi, ho⟩⟩
  on_goal 5 => exact absurd (hread hi o hlo hhi) (by simp [ho])
  all_goals exact ⟨_, exec_busy_next hb he⟩

theorem finish_intstat_done (s : State) : s.finish.intstat.getLsbD 0 = true := by
  simp [intDone]

/-- Only a data command has an opcode of 4 or more (R91). -/
theorem isData_opcode {i : Instr} (h : isData i = true) : 4 ≤ i.opcode.toNat := by
  cases i with
  | initKey _ | initKeyIv _ | setIv => nomatch h
  | _ => decide

/-! The obligations -/

/-- Settles O3. -/
theorem stepRunsTheDecodedCommand : Obligations.StepRunsTheDecodedCommand := by
  refine ⟨fun s w i rest ha hr hb hd => ?_, fun s i rest ha hr hb hd => ?_, fun s i ha hr hb hd => ?_,
    fun s w i hd hlt => ?_⟩
  · rw [step_write_cmd ha hr hb, submitWord_of_decode_ok hd]
  · rw [step_cons ha]
    exact runEvent_engine_busy (s := s.withAgenda rest) hr hb hd
  · rw [step_nil ha, runEvent_engine_busy hr hb hd]
  · have hword : tableWord 32 w = BitVec.ofNat 32 w := by rw [tableWord, Nat.mod_eq_of_lt hlt]
    rw [State.withFetchWord, step_withCommandWord, hword, submitWord_of_decode_ok hd]
    rfl

/-- Settles O4: the word is rejected by the decoder, or its command is submitted. -/
theorem cmdWriteChecksInOrder : Obligations.CmdWriteChecksInOrder := by
  intro s w rest ha hr hb s' rejected data chain
  have hreject : ∀ e, s'.reject e = rejected e := State.reject_eq s'
  have hstep : step s = submitWord w s' := step_write_cmd ha hr hb
  rw [hstep]
  cases hd : decode w with
  | error e => rw [submitWord_of_decode_error hd]; exact congrArg _ (hreject e)
  | ok i =>
    rw [submitWord_of_decode_ok hd, exec_idle i (s := s') hb, submitCommand_of_wellFormed (decode_ok hd).1,
      State.accept_of_decode_ok hd]
    simp only [data, chain, mem_dataCommands_iff, mem_chainingCommands_iff, ← hreject]
    rfl

/-- Settles O5. -/
theorem checkedCommandIsAccepted : Obligations.CheckedCommandIsAccepted := by
  intro i s hb hw hdata hchain
  rw [mem_dataCommands_iff] at hdata
  rw [mem_chainingCommands_iff] at hchain
  have hcheck : checkCommand i s = none :=
    (checkCommand_eq_none_iff i s).mpr ⟨hw, fun hi => (hdata hi).1, hchain, fun hi => (hdata hi).2⟩
  refine ⟨?_, (decodeFields_ok_iff _ _ _).mpr ⟨hw, rfl, rfl⟩⟩
  rw [exec_idle i hb, submitCommand, hcheck]
  rfl

/-- Settles O10. -/
theorem setIvCompletes : Obligations.SetIvCompletes := by
  intro s hb
  refine ⟨_, exec_setIv_busy hb, rfl, fun n j => ?_⟩
  have hcol : s.ivBytes.col n = wordLanes s.ivin[n] := by fin_cases n <;> rfl
  refine (block_col_byte s.ivBytes n j.isLt).trans ?_
  rw [hcol, List.getD_eq_getElem?_getD, wordLanes_bytes_getElem? _ j.isLt, Option.getD_some]

/-- Settles O54: the invariant excludes the illegal latch. -/
theorem onlyUnwrittenReadsStop : Obligations.OnlyUnwrittenReadsStop := by
  intro s hinv
  rcases step_inv s with ⟨t, hstep, -⟩ | ⟨f, hstep, hstop⟩
  · exact ⟨fun _ h => (nomatch hstep.symm.trans h), fun _ h => (nomatch hstep.symm.trans h)⟩
  · refine ⟨fun _ h => (nomatch hstep.symm.trans h), fun e h => ?_⟩
    cases hstep.symm.trans h
    cases hstop with
    | read _ _ _ o _ _ _ _ _ _ ho => exact ⟨o, rfl, ho⟩
    | effect _ o _ _ _ _ _ ho => exact ⟨o, rfl, ho⟩
    | latch hb hd =>
      obtain ⟨i, hi, -⟩ := hinv.latched hb
      rw [hi] at hd
      simp at hd

/-- Settles O55, by induction on the reads: each is answered and keeps the rest of the state; then the engine has its
turn, with a latch that the invariant says is legal. -/
theorem commandCompletesAfterPolling : Obligations.CommandCompletesAfterPolling := by
  intro s n
  induction n generalizing s with
  | zero =>
    intro hinv hr hb hread ha
    obtain ⟨i, hd, -⟩ := hinv.latched hb
    obtain ⟨hw, hop, -⟩ := (decodeFields_ok_iff _ _ _).mp hd
    have hregion : isData i = true → s.readable s.regionStart (16 * s.blockCount) := fun hi o hlo hhi => by
      have hmul := Nat.mul_div_le s.lat.len.toNat 16
      exact hread (hop ▸ isData_opcode hi) o hlo (Nat.lt_of_lt_of_le hhi (Nat.add_le_add_left hmul _))
    obtain ⟨u, hu⟩ := exec_completes hw hb hregion
    have hstep : step s = .next u.finish := (stepRunsTheDecodedCommand.2.2.1 s i ha hr hb hd).trans hu
    exact ⟨u.finish, run_succ_of_step 0 hstep, rfl, finish_intstat_done u⟩
  | succ n ih =>
    intro hinv hr hb hread ha
    have hstep := step_read_register .status ha hr rfl rfl rfl
    obtain ⟨t, ht, hend⟩ := ih (s.beside (List.replicate n (.hostRead 0x0004#16)) (some (.read true s.statusWord)))
      (hinv.beside _ _) hr hb hread rfl
    exact ⟨t, (run_succ_of_step (n + 1) hstep).trans ht, hend⟩

end Sys2Proof.Machine
end

section
/-! SUPPORT. The port in the BUSY window (O32, O33): the two writes performed, every other one dropped, and the windows
that read zero (R175). -/

namespace Sys2Proof.Machine

/-- A write to `INTSTAT` or `INTEN` is performed, in the BUSY window too (R25, R26). -/
theorem hostWrite_of_writableWhileBusy {off : BitVec 16} {v : Word} {s : State} (halign : off.toNat % 4 = 0)
    (hw : (regAt s.params.bufBytes off.toNat).writableWhileBusy = true) :
    hostWrite off v s = writeReg (regAt s.params.bufBytes off.toNat) v (s.respond (.write true)) := by
  rw [hostWrite, if_neg (not_not_intro halign), if_neg (by simp [hw])]

/-- In the BUSY window every other write is dropped (R175). -/
theorem hostWrite_dropped {off : BitVec 16} {v : Word} {s : State} (halign : off.toNat % 4 = 0) (hb : s.busy = true)
    (hw : (regAt s.params.bufBytes off.toNat).writableWhileBusy = false) :
    hostWrite off v s = .next (s.dropWrite.respond (.write true)) := by
  rw [hostWrite, if_neg (not_not_intro halign), if_pos ⟨hb, hw⟩]

/-- In the BUSY window the words of `CV`, `RK` and `BUF` read zero (R175). -/
theorem readReg_hidden {s : State} (hb : s.busy = true) :
    (∀ n, readReg (.cv n) s = .ok 0#32) ∧ (∀ n, readReg (.rk n) s = .ok 0#32) ∧
    (∀ n, readReg (.buf n) s = .ok 0#32) :=
  ⟨fun _ => if_pos hb, fun _ => if_pos hb, fun _ => if_pos hb⟩

/-- Settles O32. -/
theorem busyWindowWrites : Obligations.BusyWindowWrites := by
  intro s off v rest ha hr hb
  rw [step_write ha hr]
  refine ⟨?_, ?_, fun halign hstat hen => ?_⟩
  · rintro rfl
    exact hostWrite_of_writableWhileBusy (s := s.withAgenda rest) rfl rfl
  · rintro rfl
    exact hostWrite_of_writableWhileBusy (s := s.withAgenda rest) rfl rfl
  · refine hostWrite_dropped (s := s.withAgenda rest) halign hb (Bool.eq_false_iff.mpr fun hw => ?_)
    rcases (regAt_writableWhileBusy halign).mp hw with h | h
    · exact hstat (BitVec.eq_of_toNat_eq h)
    · exact hen (BitVec.eq_of_toNat_eq h)

/-- Settles O33: an offset of the three windows lies at a register of one of them. -/
theorem busyWindowReadsZero : Obligations.BusyWindowReadsZero := by
  intro s off rest ha hr hb halign hoff
  obtain ⟨hcv, hrk, hbuf⟩ := readReg_hidden (s := s.withAgenda rest) hb
  have hl := regAt_liesAt s.params.bufBytes off.toNat halign
  refine step_read_register _ ha hr halign hl ?_
  cases hreg : regAt s.params.bufBytes off.toNat with
  | cv n => exact hcv n
  | rk n => exact hrk n
  | buf n => exact hbuf n
  | _ => rw [hreg] at hl; simp only [Reg.liesAt] at hl; omega

end Sys2Proof.Machine
end

section
/-! SUPPORT. The counter (O30): big-endian numbers as digits (R9), `be_16` and `int_be` inverse to each other, and the byte
loop of `Inc128` as an addition (R182). -/

namespace Sys2Proof.Machine

/-! Big-endian numbers (R9) -/

@[simp] theorem intBe_append_singleton (l : List Byte) (b : Byte) : intBe (l ++ [b]) = intBe l * 256 + b.toNat := by
  simp [intBe]

/-- `int_be` of a sequence of `n` bytes is below `256^n`. -/
theorem intBe_lt (l : List Byte) : intBe l < 256 ^ l.length := by
  induction l using List.reverseRecOn with
  | nil => decide
  | append_singleton l b ih =>
    rw [intBe_append_singleton, List.length_append, List.length_singleton, pow_succ]
    have hb := b.isLt
    omega

/-- A number has one sequence of bytes of each length. -/
theorem intBe_injective {l m : List Byte} (hlen : l.length = m.length) (h : intBe l = intBe m) : l = m := by
  induction l using List.reverseRecOn generalizing m with
  | nil => exact (List.length_eq_zero_iff.mp hlen.symm).symm
  | append_singleton l b ih =>
    rcases List.eq_nil_or_concat' m with rfl | ⟨m, c, rfl⟩
    · simp at hlen
    · simp only [intBe_append_singleton] at h
      have hb := b.isLt
      have hc := c.isLt
      have hbc : b = c := BitVec.eq_of_toNat_eq (by omega)
      rw [ih (by simpa using hlen) (by omega), hbc]

/-- The `m` bytes of a number, the most significant first, make the number modulo `256^m`. -/
theorem intBe_digits (m n : Nat) :
    intBe ((List.range m).map fun k => BitVec.ofNat 8 (n / 256 ^ (m - 1 - k))) = n % 256 ^ m := by
  induction m generalizing n with
  | zero => simp [intBe, Nat.mod_one]
  | succ m ih =>
    have hhigh : (List.range m).map (fun k => BitVec.ofNat 8 (n / 256 ^ (m + 1 - 1 - k))) =
        (List.range m).map fun k => BitVec.ofNat 8 (n / 256 / 256 ^ (m - 1 - k)) := by
      refine List.map_congr_left fun k hk => ?_
      have hk := List.mem_range.mp hk
      rw [Nat.div_div_eq_div_mul, ← pow_succ', show m + 1 - 1 - k = m - 1 - k + 1 by omega]
    rw [List.range_succ, List.map_append, hhigh, List.map_singleton, intBe_append_singleton, ih]
    have hlow : (BitVec.ofNat 8 (n / 256 ^ (m + 1 - 1 - m))).toNat = n % 256 := by simp
    rw [hlow, pow_succ', Nat.mod_mul]
    omega

theorem two_pow_128_eq : 2 ^ 128 = 256 ^ 16 := by norm_num

theorem intBe_be16 {n : Nat} (h : n < 2 ^ 128) : intBe (be16 n).bytes = n := by
  rw [be16, block_bytes_ofBytes _ (by simp)]
  exact (intBe_digits 16 n).trans (Nat.mod_eq_of_lt (two_pow_128_eq ▸ h))

theorem intBe_bytes_lt (b : Block) : intBe b.bytes < 2 ^ 128 := by
  rw [two_pow_128_eq, ← block_bytes_length b]
  exact intBe_lt b.bytes

theorem be16_intBe (b : Block) : be16 (intBe b.bytes) = b :=
  block_ext_bytes (intBe_injective rfl (intBe_be16 (intBe_bytes_lt b)))

/-! The increment (R182) -/

theorem incBytes_length (l : List Byte) : (incBytes l).length = l.length := by
  induction l with
  | nil => rfl
  | cons b rest ih =>
    rw [incBytes]
    split
    · exact congrArg (· + 1) ih
    · rfl

/-- The carry loop adds one, on bytes of which the first is the least significant. -/
theorem intBe_incBytes (l : List Byte) : intBe (incBytes l).reverse = (intBe l.reverse + 1) % 256 ^ l.length := by
  induction l with
  | nil => rfl
  | cons b rest ih =>
    have hrest := intBe_lt rest.reverse
    rw [List.length_reverse] at hrest
    rw [incBytes, List.length_cons, pow_succ, List.reverse_cons, intBe_append_singleton]
    split
    next hb =>
      have hcarry : intBe rest.reverse * 256 + b.toNat + 1 = (intBe rest.reverse + 1) * 256 := by
        rw [hb, BitVec.toNat_ofNat]; omega
      rw [List.reverse_cons, intBe_append_singleton, ih, hcarry, Nat.mul_mod_mul_right, BitVec.toNat_zero,
        Nat.add_zero]
    next hb =>
      have hlt : b.toNat + 1 < 256 := by
        have hne : b.toNat ≠ 255 := fun h => hb (BitVec.eq_of_toNat_eq h)
        have := b.isLt
        omega
      have hone : (b + 1#8).toNat = b.toNat + 1 := by
        rw [BitVec.toNat_add]; exact Nat.mod_eq_of_lt hlt
      rw [List.reverse_cons, intBe_append_singleton, hone, Nat.mod_eq_of_lt (by omega), Nat.add_assoc]

theorem intBe_inc128 (cv : Block) : intBe (inc128 cv).bytes = (intBe cv.bytes + 1) % 2 ^ 128 := by
  have hloop := intBe_incBytes cv.bytes.reverse
  rw [List.reverse_reverse, List.length_reverse, block_bytes_length, ← two_pow_128_eq] at hloop
  rw [inc128, block_bytes_ofBytes _ (by rw [List.length_reverse, incBytes_length]; rfl)]
  exact hloop

/-- Settles O30. -/
theorem counterIncrement : Obligations.CounterIncrement := fun cv => by
  rw [← intBe_inc128, be16_intBe]

end Sys2Proof.Machine
end

section
/-! SUPPORT. The completion of the data commands (O20 to O25, O28): said once for all five, from the blocks of the latched
region, and then with the chaining values of each mode written out (R173, R177 to R182). -/

namespace Sys2Proof.Machine

/-! The blocks of a state -/

theorem State.blockAt?_eq_some_iff (s : State) (a : Nat) (b : Block) :
    s.blockAt? a = some b ↔ readBlock s.params.bufBytes s.buf a = .ok b := by
  unfold State.blockAt?
  cases readBlock s.params.bufBytes s.buf a <;> simp

theorem State.blockAt?_eq_some_iff_bytes (s : State) (a : Nat) (b : Block) :
    s.blockAt? a = some b ↔ ∀ k < 16, s.bufByte? (a + k) = some (b.byte k) :=
  (s.blockAt?_eq_some_iff a b).trans (readBlock_ok_iff _ _ _ _)

/-- A block depends on its sixteen bytes only. -/
theorem State.blockAt?_congr {s t : State} {a : Nat} (h : ∀ k < 16, t.bufByte? (a + k) = s.bufByte? (a + k)) :
    t.blockAt? a = s.blockAt? a := by
  ext b
  rw [State.blockAt?_eq_some_iff_bytes, State.blockAt?_eq_some_iff_bytes]
  exact forall₂_congr fun k hk => by rw [h k hk]

/-- The blocks of the latched region read as `bs`. -/
def State.regionIs (s : State) (bs : Nat → Block) : Prop :=
  ∀ k < s.blockCount, s.blockAt? (s.regionStart + 16 * k) = some (bs k)

theorem State.regionIs_of_readable {s : State} (h : s.readable s.regionStart (16 * s.blockCount)) :
    ∃ bs, s.regionIs bs := by
  obtain ⟨bs, hbs⟩ := blocks_of_readable h
  exact ⟨bs, fun k hk => (s.blockAt?_eq_some_iff _ _).mpr (hbs k hk)⟩

/-! The completion of a data command -/

/-- The block step reads the parameters, the round keys and the key size, and nothing else of the state. -/
theorem blockStepOf_congr {s t : State} (hp : t.params = s.params) (hrk : t.rk = s.rk) (hks : t.ksCur = s.ksCur)
    (i : Instr) : blockStepOf i t = blockStepOf i s := by
  have hcipher : t.cipher = s.cipher := funext fun b => by rw [State.cipher, State.cipher, hp, hrk, hks]
  have hinv : t.invCipher = s.invCipher := funext fun b => by rw [State.invCipher, State.invCipher, hp, hrk, hks]
  funext cv b
  cases i with
  | initKey _ | initKeyIv _ | setIv => rfl
  | ecbEnc => simp only [blockStepOf, ecbEncStep, hcipher]
  | ecbDec => simp only [blockStepOf, ecbDecStep, hinv]
  | cbcEnc => simp only [blockStepOf, cbcEncStep, hcipher]
  | cbcDec => simp only [blockStepOf, cbcDecStep, hinv]
  | ctrXcrypt => simp only [blockStepOf, ctrStep, hcipher]

/-- The completion of a data command whose block loop ends with the buffer and the chaining value of `r`; the block step
may be that of another state with the same key. -/
theorem exec_data_of_blockLoop {i : Instr} {s t : State} {n a : Nat} {r : Memory × Block} (hi : isData i = true)
    (hb : t.busy = true) (hp : t.params = s.params) (hrk : t.rk = s.rk) (hks : t.ksCur = s.ksCur)
    (hn : t.blockCount = n) (ha : t.regionStart = a)
    (h : blockLoop s.params.bufBytes (blockStepOf i s) n a t.cv t.buf = .ok r) :
    exec i t = .next (t.setRegion r.1 r.2).finish := by
  rw [← blockStepOf_congr hp hrk hks, ← hp, ← hn, ← ha] at h
  exact exec_busy_next hb (by rw [effectOf_data hi, dataEffect, h])

/-- Output block `k` of a block step, from the input blocks `bs` and the chaining value `cv` before the first. -/
def blockOutput (f : BlockStep) (bs : Nat → Block) (cv : Block) (k : Nat) : Block :=
  (f (chainBefore f bs cv k) (bs k)).1

/-- The completion of the data command `i` from `s`, whose region holds the blocks `bs`, to `t`: `CV` is the chaining
value after the last block, each block is the one its step makes, and every other byte is as before. -/
structure DataCompletion (i : Instr) (s : State) (bs : Nat → Block) (t : State) : Prop where
  exec_eq : exec i s = .next t
  setsRegion : ∃ m c, t = (s.setRegion m c).finish
  cv_eq : t.cv = chainBefore (blockStepOf i s) bs s.cv s.blockCount
  blocks : ∀ k < s.blockCount, t.blockAt? (s.regionStart + 16 * k) = some (blockOutput (blockStepOf i s) bs s.cv k)
  outside : ∀ o, ¬(s.regionStart ≤ o ∧ o < s.regionStart + 16 * s.blockCount) → t.bufByte? o = s.bufByte? o

theorem dataCompletion_of_regionIs {i : Instr} {s : State} {bs : Nat → Block} (hi : isData i = true)
    (hb : s.busy = true) (h : s.regionIs bs) : ∃ t, DataCompletion i s bs t := by
  obtain ⟨m, he, hblocks, hout, -⟩ := dataEffect_of_blocks (f := blockStepOf i s)
    fun k hk => (s.blockAt?_eq_some_iff _ _).mp (h k hk)
  exact ⟨_, exec_busy_next hb (by rw [effectOf_data hi, he]), ⟨m, _, rfl⟩, rfl,
    fun k hk => (State.blockAt?_eq_some_iff _ _ _).mpr (hblocks k hk), hout⟩

/-- A data command whose region is readable completes. -/
theorem dataCompletion_of_readable {i : Instr} {s : State} (hi : isData i = true) (hb : s.busy = true)
    (h : s.readable s.regionStart (16 * s.blockCount)) : ∃ bs t, s.regionIs bs ∧ DataCompletion i s bs t := by
  obtain ⟨bs, hbs⟩ := State.regionIs_of_readable h
  obtain ⟨t, ht⟩ := dataCompletion_of_regionIs hi hb hbs
  exact ⟨bs, t, hbs, ht⟩

section Frame

variable {i : Instr} {s t : State} {bs : Nat → Block} (h : DataCompletion i s bs t)
include h

/-- A completion changes `BUF`, `CV`, `BUSY` and `DONE` only (R171, R173). -/
theorem DataCompletion.frame :
    t = { s with buf := t.buf, cv := t.cv, busy := false, intstat := s.intstat ||| 0b001#3 } := by
  obtain ⟨m, c, rfl⟩ := h.setsRegion
  rfl

/-- One that does not chain leaves `CV` too. -/
theorem DataCompletion.frame_of_not_chaining (hc : isChaining i = false) :
    t = { s with buf := t.buf, busy := false, intstat := s.intstat ||| 0b001#3 } := by
  have hcv : t.cv = s.cv := h.cv_eq.trans (chainBefore_of_not_chaining hc s bs s.cv _)
  have hframe := h.frame
  rwa [hcv] at hframe

end Frame

/-! The counter before each block (R181, R182) -/

theorem chainBefore_ctrStep (s : State) (bs : Nat → Block) (cv : Block) (k : Nat) :
    chainBefore (ctrStep s) bs cv k = be16 ((intBe cv.bytes + k) % 2 ^ 128) := by
  induction k with
  | zero => rw [chainBefore, Nat.add_zero, Nat.mod_eq_of_lt (intBe_bytes_lt cv), be16_intBe]
  | succ k ih =>
    have hlt : (intBe cv.bytes + k) % 2 ^ 128 < 2 ^ 128 := Nat.mod_lt _ (Nat.two_pow_pos 128)
    rw [chainBefore, ih, ctrStep, counterIncrement, intBe_be16 hlt, Nat.mod_add_mod, Nat.add_assoc]

/-! The obligations -/

/-- Settles O20. -/
theorem ecbEncCompletes : Obligations.EcbEncCompletes := by
  rintro s _ _ rfl rfl hb hread
  obtain ⟨bs, t, hbs, ht⟩ := dataCompletion_of_readable (i := .ecbEnc) rfl hb hread
  exact ⟨t, ht.exec_eq, ht.frame_of_not_chaining rfl, fun k hk => ⟨bs k, hbs k hk, ht.blocks k hk⟩, ht.outside⟩

/-- Settles O21. -/
theorem ecbDecCompletes : Obligations.EcbDecCompletes := by
  rintro s _ _ rfl rfl hb hread
  obtain ⟨bs, t, hbs, ht⟩ := dataCompletion_of_readable (i := .ecbDec) rfl hb hread
  exact ⟨t, ht.exec_eq, ht.frame_of_not_chaining rfl, fun k hk => ⟨bs k, hbs k hk, ht.blocks k hk⟩, ht.outside⟩

/-- Settles O22: the chaining value after a block is the block that is written. -/
theorem cbcEncCompletes : Obligations.CbcEncCompletes := by
  rintro s _ n rfl hn hb hread
  obtain rfl : n = s.blockCount := hn
  obtain ⟨bs, t, hbs, ht⟩ := dataCompletion_of_readable (i := .cbcEnc) rfl hb hread
  refine ⟨t, ht.exec_eq, ht.frame, fun k hk => ⟨bs k, _, hbs k hk, ?_, ht.blocks k hk⟩, ?_, ht.outside⟩
  · cases k with
    | zero => rfl
    | succ k => exact ht.blocks k (by omega)
  · rw [ht.cv_eq]
    cases hn : s.blockCount with
    | zero => rfl
    | succ m => exact ht.blocks m (by omega)

/-- Settles O23: the chaining value after a block is that block as it was. -/
theorem cbcDecCompletes : Obligations.CbcDecCompletes := by
  rintro s _ n rfl hn hb hread
  obtain rfl : n = s.blockCount := hn
  obtain ⟨bs, t, hbs, ht⟩ := dataCompletion_of_readable (i := .cbcDec) rfl hb hread
  refine ⟨t, ht.exec_eq, ht.frame, fun k hk => ⟨bs k, _, hbs k hk, ?_, ht.blocks k hk⟩, ?_, ht.outside⟩
  · cases k with
    | zero => rfl
    | succ k => exact hbs k (by omega)
  · rw [ht.cv_eq]
    cases hn : s.blockCount with
    | zero => rfl
    | succ m => exact hbs m (by omega)

/-- Settles O24. -/
theorem ctrXcryptCompletes : Obligations.CtrXcryptCompletes := by
  rintro s _ _ rfl rfl hb hread
  obtain ⟨bs, t, hbs, ht⟩ := dataCompletion_of_readable (i := .ctrXcrypt) rfl hb hread
  refine ⟨t, ht.exec_eq, ?_, fun k hk => ⟨bs k, hbs k hk, ?_⟩, ht.outside⟩
  · have hframe := ht.frame
    rwa [ht.cv_eq, blockStepOf, chainBefore_ctrStep] at hframe
  · rw [← chainBefore_ctrStep s bs s.cv k]
    exact ht.blocks k hk

/-- Settles O25: the region of `LEN = 0` has no blocks, and its checks hold. -/
theorem zeroLengthCommandChangesNothing : Obligations.ZeroLengthCommandChangesNothing := by
  intro i s hmem
  have hi := (mem_dataCommands_iff i).mp hmem
  refine ⟨fun hb hkey hiv hlen halign hle => ?_, fun hb hlen => ?_⟩
  · have hw : i.wellFormed = true := by
      cases i with
      | initKey _ | initKeyIv _ => nomatch hi
      | _ => rfl
    have haccept := (checkedCommandIsAccepted i s hb hw
      (fun _ => ⟨hkey, halign, by simp [hlen], by simpa [hlen] using hle⟩) hiv).1
    exact hlen ▸ haccept
  · have hcount : s.blockCount = 0 := by simp [State.blockCount, hlen]
    exact exec_data_of_blockLoop (s := s) (r := (s.buf, s.cv)) hi hb rfl rfl rfl hcount rfl rfl

/-- Settles O28: the block loop over `n1 + n2` blocks is two loops. -/
theorem splitCommandEqualsWhole : Obligations.SplitCommandEqualsWhole := by
  intro i s n1 n2 hmem hb hle hread
  have hi := (mem_dataCommands_iff i).mp hmem
  have hsize := params_bufBytes_mod s.params
  have hcount : ∀ n ≤ n1 + n2, (BitVec.ofNat 32 (16 * n)).toNat / 16 = n := fun n hn => by
    rw [BitVec.toNat_ofNat, Nat.mod_eq_of_lt (by omega)]; omega
  have hstart : (s.lat.addr + BitVec.ofNat 32 (16 * n1)).toNat = s.lat.addr.toNat + 16 * n1 := by
    rw [BitVec.toNat_add, BitVec.toNat_ofNat]; omega
  obtain ⟨bs, hbs⟩ := blocks_of_readable hread
  obtain ⟨m, hwhole, -⟩ := blockLoop_of_blocks (blockStepOf i s) (cv := s.cv) hbs
  have hsplit := blockLoop_add s.params.bufBytes (blockStepOf i s) n1 n2 s.lat.addr.toNat s.cv s.buf
  cases hfirst : blockLoop s.params.bufBytes (blockStepOf i s) n1 s.lat.addr.toNat s.cv s.buf with
  | error e => rw [hwhole, hfirst] at hsplit; nomatch hsplit
  | ok r =>
    rw [hwhole, hfirst] at hsplit
    exact ⟨_, _, _, exec_data_of_blockLoop (s := s) hi hb rfl rfl rfl (hcount n1 (by omega)) rfl hfirst,
      exec_data_of_blockLoop (s := s) hi rfl rfl rfl rfl (hcount n2 (by omega)) hstart hsplit.symm,
      exec_data_of_blockLoop (s := s) hi hb rfl rfl rfl (hcount (n1 + n2) le_rfl) rfl hwhole, rfl, rfl⟩

end Sys2Proof.Machine
end

section
/-! SUPPORT. What the data commands do to each other's output (O27, O29): a mode undoes another where its block step does
(R183), and a changed ciphertext block changes two plaintext blocks (R185). -/

namespace Sys2Proof.Machine

/-! XOR of blocks (R9) -/

theorem block_xor_comm (a b : Block) : a.xor b = b.xor a :=
  block_ext_byte fun k hk => by rw [block_xor_byte _ _ hk, block_xor_byte _ _ hk, BitVec.xor_comm]

theorem block_xor_xor_cancel (a b : Block) : (a.xor b).xor b = a :=
  block_ext_byte fun k hk => by
    rw [block_xor_byte _ _ hk, block_xor_byte _ _ hk, BitVec.xor_assoc, BitVec.xor_self, BitVec.xor_zero]

theorem block_xor_right_injective (c : Block) : Function.Injective fun a : Block => a.xor c :=
  Function.LeftInverse.injective (g := fun a => a.xor c) fun a => block_xor_xor_cancel a c

theorem block_xor_left_injective (c : Block) : Function.Injective c.xor := fun a b h =>
  block_xor_right_injective c (by simpa only [block_xor_comm _ c] using h)

/-! A mode that undoes another (R183) -/

/-- The block step `g` undoes `f`: from the chaining value and the output of `f` it makes the input of `f`, and the same
next chaining value. -/
def Undoes (g f : BlockStep) : Prop := ∀ cv b, g cv (f cv b).1 = (b, (f cv b).2)

theorem ecbDecStep_undoes (s : State) : Undoes (ecbDecStep s) (ecbEncStep s) := fun cv b => by
  rw [ecbDecStep, ecbEncStep, (invCipherInvertsCipher s b).1]

theorem cbcDecStep_undoes (s : State) : Undoes (cbcDecStep s) (cbcEncStep s) := fun cv b => by
  rw [cbcDecStep, cbcEncStep, (invCipherInvertsCipher s _).1, block_xor_xor_cancel]

theorem ctrStep_undoes (s : State) : Undoes (ctrStep s) (ctrStep s) := fun cv b => by
  simp only [ctrStep, block_xor_xor_cancel]

/-- On the output blocks of `f` the chaining values of `g` are those of `f`. -/
theorem chainBefore_of_undoes {f g : BlockStep} (h : Undoes g f) (bs : Nat → Block) (cv : Block) (k : Nat) :
    chainBefore g (blockOutput f bs cv) cv k = chainBefore f bs cv k := by
  induction k with
  | zero => rfl
  | succ k ih => rw [chainBefore, ih, blockOutput, h]; rfl

theorem blockOutput_of_undoes {f g : BlockStep} (h : Undoes g f) (bs : Nat → Block) (cv : Block) (k : Nat) :
    blockOutput g (blockOutput f bs cv) cv k = bs k := by
  rw [blockOutput, chainBefore_of_undoes h, blockOutput, h]

/-- Two states whose region holds the same blocks, and that agree outside it, agree in every byte. -/
theorem bufByte?_eq_of_regionIs {s t : State} {a n : Nat} {bs : Nat → Block}
    (hs : ∀ k < n, s.blockAt? (a + 16 * k) = some (bs k)) (ht : ∀ k < n, t.blockAt? (a + 16 * k) = some (bs k))
    (hout : ∀ o, ¬(a ≤ o ∧ o < a + 16 * n) → t.bufByte? o = s.bufByte? o) (o : Nat) :
    t.bufByte? o = s.bufByte? o := by
  by_cases ho : a ≤ o ∧ o < a + 16 * n
  · have hk : (o - a) / 16 < n := by omega
    have hj : (o - a) % 16 < 16 := by omega
    have hsplit : a + 16 * ((o - a) / 16) + (o - a) % 16 = o := by omega
    have hts := (t.blockAt?_eq_some_iff_bytes _ _).mp (ht _ hk) _ hj
    have hss := (s.blockAt?_eq_some_iff_bytes _ _).mp (hs _ hk) _ hj
    rw [hsplit] at hts hss
    rw [hts, hss]
  · exact hout o ho

/-- The BUSY window entered again, with `CV` set to `c`. -/
def State.restart (t : State) (c : Block) : State := { t with busy := true, cv := c }

/-- A data command, and then, with `CV` set back, one whose block step undoes it, restore every byte of `BUF`. -/
theorem exec_undoes {i j : Instr} {s : State} (hi : isData i = true) (hj : isData j = true)
    (h : Undoes (blockStepOf j s) (blockStepOf i s)) (hb : s.busy = true)
    (hread : s.readable s.regionStart (16 * s.blockCount)) :
    ∃ t u, exec i s = .next t ∧ (isChaining i = false → t.cv = s.cv) ∧ exec j (t.restart s.cv) = .next u ∧
      ∀ o, u.bufByte? o = s.bufByte? o := by
  obtain ⟨bs, t, hbs, ht⟩ := dataCompletion_of_readable hi hb hread
  have hcv : isChaining i = false → t.cv = s.cv := fun hc => ht.cv_eq.trans (chainBefore_of_not_chaining hc s bs s.cv _)
  obtain ⟨m, c, rfl⟩ := ht.setsRegion
  have hregion : ((s.setRegion m c).finish.restart s.cv).regionIs _ := ht.blocks
  have hstep : blockStepOf j ((s.setRegion m c).finish.restart s.cv) = blockStepOf j s := by
    apply blockStepOf_congr <;> rfl
  obtain ⟨u, hu⟩ := dataCompletion_of_regionIs hj rfl hregion
  have hblocks := hu.blocks
  rw [hstep] at hblocks
  exact ⟨_, u, ht.exec_eq, hcv, hu.exec_eq, bufByte?_eq_of_regionIs hbs
    (fun k hk => (hblocks k hk).trans (congrArg some (blockOutput_of_undoes h bs s.cv k)))
    fun o ho => (hu.outside o ho).trans (ht.outside o ho)⟩

/-! Error propagation (R185) -/

theorem invCipher_injective (s : State) : Function.Injective s.invCipher :=
  Function.LeftInverse.injective (g := s.cipher) fun b => (invCipherInvertsCipher s b).2

/-- The chaining value of `CBC_DEC` before a block depends on the ciphertext block before it only. -/
theorem chainBefore_cbcDecStep_congr (s : State) {bs bs' : Nat → Block} (cv : Block) {k : Nat}
    (h : ∀ l, l + 1 = k → bs' l = bs l) :
    chainBefore (cbcDecStep s) bs' cv k = chainBefore (cbcDecStep s) bs cv k := by
  cases k with
  | zero => rfl
  | succ l => exact h l rfl

/-- A plaintext block depends on its ciphertext block and the one before it only (R180). -/
theorem cbcDec_output_congr (s : State) {bs bs' : Nat → Block} (cv : Block) {k : Nat} (hk : bs' k = bs k)
    (hprev : ∀ l, l + 1 = k → bs' l = bs l) :
    blockOutput (cbcDecStep s) bs' cv k = blockOutput (cbcDecStep s) bs cv k := by
  rw [blockOutput, blockOutput, hk, chainBefore_cbcDecStep_congr s cv hprev]

/-- A changed ciphertext block changes its plaintext block, for `InvCipher` is injective. -/
theorem cbcDec_output_ne (s : State) {bs bs' : Nat → Block} (cv : Block) {k : Nat} (hk : bs' k ≠ bs k)
    (hprev : ∀ l, l + 1 = k → bs' l = bs l) :
    blockOutput (cbcDecStep s) bs' cv k ≠ blockOutput (cbcDecStep s) bs cv k := by
  rw [blockOutput, blockOutput, chainBefore_cbcDecStep_congr s cv hprev]
  exact fun h => hk (invCipher_injective s (block_xor_right_injective _ h))

/-- It changes the next one, to which it is added. -/
theorem cbcDec_next_output_ne (s : State) {bs bs' : Nat → Block} (cv : Block) {k : Nat} (hk : bs' k ≠ bs k)
    (hnext : bs' (k + 1) = bs (k + 1)) :
    blockOutput (cbcDecStep s) bs' cv (k + 1) ≠ blockOutput (cbcDecStep s) bs cv (k + 1) := by
  rw [blockOutput, blockOutput, hnext]
  exact fun h => hk (block_xor_left_injective _ h)

/-! The obligations -/

/-- Settles O27: the block step of each decryption undoes that of its encryption. -/
theorem modesRoundTrip : Obligations.ModesRoundTrip := by
  intro s hb hread
  refine ⟨?_, ?_, ?_⟩
  · obtain ⟨t, u, ht, hcv, hu, hbytes⟩ :=
      exec_undoes (i := .ecbEnc) (j := .ecbDec) rfl rfl (ecbDecStep_undoes s) hb hread
    have hsame : t.restart s.cv = { t with busy := true } := by rw [State.restart, ← hcv rfl]
    exact ⟨t, u, ht, hsame ▸ hu, hbytes⟩
  · obtain ⟨t, u, ht, -, hu⟩ := exec_undoes (i := .cbcEnc) (j := .cbcDec) rfl rfl (cbcDecStep_undoes s) hb hread
    exact ⟨t, u, ht, hu⟩
  · obtain ⟨t, u, ht, -, hu⟩ := exec_undoes (i := .ctrXcrypt) (j := .ctrXcrypt) rfl rfl (ctrStep_undoes s) hb hread
    exact ⟨t, u, ht, hu⟩

/-- Settles O29: of the plaintext blocks only `j` and `j + 1` depend on ciphertext block `j`, and both do so injectively. -/
theorem cbcErrorPropagation : Obligations.CbcErrorPropagation := by
  rintro s m _ n j rfl hn hb hread hj hread' hout
  obtain rfl : n = s.blockCount := hn
  obtain ⟨bs, t, hbs, ht⟩ := dataCompletion_of_readable (i := .cbcDec) rfl hb hread
  obtain ⟨bs', u, hbs', hu⟩ := dataCompletion_of_readable (i := .cbcDec) (s := { s with buf := m }) rfl hb hread'
  have htk : ∀ k < s.blockCount, t.blockAt? (s.lat.addr.toNat + 16 * k) =
      some (blockOutput (cbcDecStep s) bs s.cv k) := ht.blocks
  have huk : ∀ k < s.blockCount, u.blockAt? (s.lat.addr.toNat + 16 * k) =
      some (blockOutput (cbcDecStep s) bs' s.cv k) := hu.blocks
  have hsame : ∀ k < s.blockCount, k ≠ j → bs' k = bs k := fun k hk hkj => by
    have hblock : ({ s with buf := m } : State).blockAt? (s.lat.addr.toNat + 16 * k) =
        s.blockAt? (s.lat.addr.toNat + 16 * k) := State.blockAt?_congr fun b hlt => hout _ (by omega)
    exact Option.some.inj ((hbs' k hk).symm.trans (hblock.trans (hbs k hk)))
  refine ⟨t, u, ht.exec_eq, hu.exec_eq, fun k hk hkj hkj' => ?_, fun hne => ?_⟩
  · rw [htk k hk, huk k hk, cbcDec_output_congr s s.cv (hsame k hk hkj) fun l hl => hsame l (by omega) (by omega)]
    exact ⟨rfl, rfl⟩
  · have hchanged : bs' j ≠ bs j := fun h => hne ((hbs' j hj).trans ((congrArg some h).trans (hbs j hj).symm))
    refine ⟨?_, fun hj' => ?_⟩
    · rw [htk j hj, huk j hj]
      exact fun h => cbcDec_output_ne s s.cv hchanged (fun l hl => hsame l (by omega) (by omega)) (Option.some.inj h)
    · rw [htk _ hj', huk _ hj']
      exact fun h => cbcDec_next_output_ne s s.cv hchanged (hsame _ hj' (by omega)) (Option.some.inj h)

end Sys2Proof.Machine
end

section
/-! SUPPORT. Reset (O44, O45): what each event is while `rst_n` is low, then the obligations. -/

namespace Sys2Proof.Machine

/-! Events while `rst_n` is low (R230); a read is `step_read_inReset` -/

/-- In reset the engine takes no completion step, also where a command was in flight. -/
theorem runEvent_engine_inReset {s : State} (hr : s.rstN = false) : runEvent .engine s = .next s := by
  simp [runEvent, hr]

/-- In reset a write is not performed. -/
theorem step_write_inReset {s : State} {off : BitVec 16} {v : Word} {rest : List Event}
    (ha : s.agenda = .hostWrite off v :: rest) (hr : s.rstN = false) :
    step s = .next (s.withAgenda rest).noResponse := by
  simp [step_cons ha, runEvent, hr]

/-! The obligations -/

/-- Settles O44: the assertion of reset reads neither `BUSY` nor `rst_n`, and its state is `State.assertReset`. -/
theorem resetClearsEverything : Obligations.ResetClearsEverything :=
  fun _ _ ha => step_cons ha

/-- Settles O45, event by event: of these only the release of reset does not look at `rst_n`. -/
theorem nothingHappensInReset : Obligations.NothingHappensInReset := by
  intro s hr
  refine ⟨fun ha => ?noEvent, fun rest ha => ?engine, fun rest off ha => ?read, fun rest off v ha => ?write,
    fun rest ha => ?release⟩
  case noEvent => exact (step_nil ha).trans (runEvent_engine_inReset hr)
  case engine => exact (step_cons ha).trans (runEvent_engine_inReset (s := s.withAgenda rest) hr)
  case read => exact step_read_inReset ha hr
  case write => exact step_write_inReset ha hr
  case release => exact step_cons ha

end Sys2Proof.Machine
end

section
/-! SUPPORT. The known-answer vector (O19): a closed fact, so its forward half is evaluated; the way back is R148. -/

namespace Sys2Proof.Machine

/-- Settles O19: only `Cipher` is run, and `invCipherBlock_cipherBlock` takes its result back. -/
theorem knownAnswerVector : Obligations.KnownAnswerVector := by
  unfold Obligations.KnownAnswerVector
  intro key rk plain crypt
  have forward : cipherBlock Params.default rk 10 plain = crypt := by decide +kernel
  have backward : invCipherBlock Params.default rk 10 crypt = plain := by
    rw [← forward, invCipherBlock_cipherBlock]
  exact ⟨forward, backward⟩

end Sys2Proof.Machine
end
